-- ==== Sys2Proof/Word.lean ====
section
/-! DEFINITION. The widths the source fixes (spec/00_scope.md R7), as bit-vector types. -/

namespace Sys2Proof

/-- A 64-bit register value, a message block, or a BLK word (R7, R20, R32). -/
abbrev Word := BitVec 64

/-- One character of TEXT (R7, R32, R199). -/
abbrev Byte := BitVec 8

/-- The secret key, the contents of KEY (R7, R24). -/
abbrev Key := BitVec 56

/-- One half of the key (R7, R121). -/
abbrev KeyHalf := BitVec 28

/-- A round subkey, one entry of SK (R7, R30). -/
abbrev Subkey := BitVec 48

/-- A half-block, left or right (R7). -/
abbrev Half := BitVec 32

end Sys2Proof
end

