-- ==== Sys2Proof/Syntax.lean ====
section
/-! DEFINITION. The commands of the engine: one constructor per row of spec/opcode_table.json (spec/30_encoding.md R75, R79),
and the causes for which a command is rejected (spec/60_exceptions.md R221). -/

namespace Sys2Proof

/-- The 15 commands of R75. A command has no operand fields (R74): its operands are fixed registers and buffers (R57). -/
inductive Instr where
  /-- PERM.IP, R103. -/
  | permIp
  /-- PERM.FP, R104. -/
  | permFp
  /-- PERM.E, R105. -/
  | permE
  /-- PERM.P, R106. -/
  | permP
  /-- PERM.PC2, R107. -/
  | permPc2
  /-- KSCHED, R124. -/
  | ksched
  /-- SBOX, R154. -/
  | sbox
  /-- ROUND, R155. -/
  | round
  /-- CRYPT.DEC, R182. -/
  | cryptDec
  /-- CRYPT.ENC, R181. -/
  | cryptEnc
  /-- PROC.DEC, R184. -/
  | procDec
  /-- PROC.ENC, R183. -/
  | procEnc
  /-- ENCODE, R200. -/
  | encode
  /-- DECODE.PT, R201. -/
  | decodePt
  /-- DECODE.CT, R202. -/
  | decodeCt
deriving DecidableEq, Repr

/-- The causes of `IllegalCommand` (R221). CAUSE 0 and 4 to 15 are never raised. -/
inductive Cause where
  /-- Cause 1: OP is 0x0 or in 0x9..0xF. -/
  | reservedOperation
  /-- Cause 2: OP is legal; RSV, SEL or D holds a value it does not allow. -/
  | reservedField
  /-- Cause 3: TLEN above TEXT_CAP for ENCODE, BLEN above BLK_CAP for PROC.* and DECODE.*. -/
  | lengthOutOfRange
deriving DecidableEq, Repr

end Sys2Proof
end

