-- ==== Sys2Proof/WellFormed.lean ====
section
/-! DEFINITION. When a 64-bit word is a legal command word, said field by field (spec/30_encoding.md R70 to R73, R76).
The constructors of `Instr` carry no operands (R74), so every `Instr` is well-formed and the checks are on the word.
These checks are written apart from the decoder, which compares whole words (R75): that the two agree is a statement. -/

namespace Sys2Proof

/-- OP, bits 3:0 (R70). -/
def CommandWord.op (w : Word) : Nat := w.toNat % 16

/-- SEL, bits 7:4 (R70). -/
def CommandWord.sel (w : Word) : Nat := w.toNat / 16 % 16

/-- D, bit 8 (R70). -/
def CommandWord.d (w : Word) : Nat := w.toNat / 256 % 2

/-- RSV, bits 63:9 (R70). -/
def CommandWord.rsv (w : Word) : Nat := w.toNat / 512

/-- R71: OP is 0x1 to 0x8. -/
def CommandWord.opOk (w : Word) : Bool := 1 ≤ op w && op w ≤ 8

/-- R72, R76: SEL is 0x0 to 0x4 for PERM and 0 for every other OP. -/
def CommandWord.selOk (w : Word) : Bool := if op w = 1 then decide (sel w ≤ 4) else decide (sel w = 0)

/-- R73, R76: D is 0 but for CRYPT, PROC and DECODE. -/
def CommandWord.dOk (w : Word) : Bool := d w == 0 || op w == 5 || op w == 6 || op w == 8

/-- R70, R76: RSV is 0. -/
def CommandWord.rsvOk (w : Word) : Bool := rsv w == 0

/-- A legal command word: no case of R76 applies. -/
def CommandWord.wellFormed (w : Word) : Bool := opOk w && selOk w && dOk w && rsvOk w

end Sys2Proof
end

