-- ==== Sys2Proof/Decode.lean ====
section
/-! DEFINITION. The decoder, total on every 64-bit word, and the encoder (spec/30_encoding.md R70 to R76). -/

namespace Sys2Proof

/-- The opcode map of R75, word by word. -/
def opcodeTable : List (Word × Instr) :=
  [(0x0000000000000001, .permIp), (0x0000000000000011, .permFp), (0x0000000000000021, .permE),
   (0x0000000000000031, .permP), (0x0000000000000041, .permPc2), (0x0000000000000002, .ksched),
   (0x0000000000000003, .sbox), (0x0000000000000004, .round), (0x0000000000000005, .cryptDec),
   (0x0000000000000105, .cryptEnc), (0x0000000000000006, .procDec), (0x0000000000000106, .procEnc),
   (0x0000000000000007, .encode), (0x0000000000000008, .decodePt), (0x0000000000000108, .decodeCt)]

/-- The entry for `w` in a list of rows: the whole word is compared (R75). -/
def lookupWord : List (Word × Instr) → Word → Option Instr
  | [], _ => none
  | (word, i) :: rows, w => if w = word then some i else lookupWord rows w

/-- The cause for which an illegal word is rejected (R76, R221): the reserved operation is checked first. -/
def illegalCause (w : Word) : Cause :=
  let op : BitVec 4 := w.extractLsb' 0 4
  if op = 0 ∨ 9 ≤ op.toNat then .reservedOperation else .reservedField

/-- Decodes a command word: R75 for a legal word, R76 for every other. -/
def decode (w : Word) : Except Cause Instr :=
  match lookupWord opcodeTable w with
  | some i => .ok i
  | none => .error (illegalCause w)

/-- OP of a command (R71). -/
def Instr.op : Instr → BitVec 4
  | .permIp => 0x1 | .permFp => 0x1 | .permE => 0x1 | .permP => 0x1 | .permPc2 => 0x1
  | .ksched => 0x2
  | .sbox => 0x3
  | .round => 0x4
  | .cryptDec => 0x5 | .cryptEnc => 0x5
  | .procDec => 0x6 | .procEnc => 0x6
  | .encode => 0x7
  | .decodePt => 0x8 | .decodeCt => 0x8

/-- SEL of a command (R72): the table of PERM, 0 for every other. -/
def Instr.sel : Instr → BitVec 4
  | .permIp => 0x0 | .permFp => 0x1 | .permE => 0x2 | .permP => 0x3 | .permPc2 => 0x4
  | .ksched => 0 | .sbox => 0 | .round => 0
  | .cryptDec => 0 | .cryptEnc => 0 | .procDec => 0 | .procEnc => 0
  | .encode => 0 | .decodePt => 0 | .decodeCt => 0

/-- D of a command (R73). -/
def Instr.d : Instr → BitVec 1
  | .cryptEnc => 1 | .procEnc => 1 | .decodeCt => 1
  | .cryptDec => 0 | .procDec => 0 | .decodePt => 0
  | .permIp => 0 | .permFp => 0 | .permE => 0 | .permP => 0 | .permPc2 => 0
  | .ksched => 0 | .sbox => 0 | .round => 0 | .encode => 0

/-- The word of a command, from its fields: RSV, D, SEL, OP (R70). -/
def encode (i : Instr) : Word := (0 : BitVec 55) ++ (i.d ++ (i.sel ++ i.op))

/-- What the decoder reads from the low `nbits` bits of `w`, as spec/opcode_table.json numbers them. A command is one
64-bit word (R78), bit 0 its least significant bit (R9); a number that does not fit a word is none. -/
def decodeTableWord (nbits w : Nat) : Option Instr :=
  if w % 2 ^ nbits < 2 ^ 64 then
    match decode (BitVec.ofNat 64 (w % 2 ^ nbits)) with
    | .ok i => some i
    | .error _ => none
  else none

end Sys2Proof
end

