-- ==== Sys2Proof/Config.lean ====
section
/-! DEFINITION. The configuration of the engine (spec/00_scope.md R8, spec/10_state.md R40 to R42), the platform
parameters, and the free values of the model. -/

namespace Sys2Proof

/-- The configuration parameters of R8 as the platform hands them over, before any check.
Table entries are the source's 1-based frame positions (R9); `sbox` is box, row, column. -/
structure Tables where
  /-- IP_TABLE. -/
  ip : List Nat
  /-- FP_TABLE. -/
  fp : List Nat
  /-- E_TABLE. -/
  e : List Nat
  /-- P_TABLE. -/
  p : List Nat
  /-- PC2_TABLE. -/
  pc2 : List Nat
  /-- SBOX[b][row][col]. -/
  sbox : List (List (List Nat))
  /-- BLK_CAP. -/
  blkCap : Nat
deriving DecidableEq, Repr

namespace Tables

/-- Every entry names a position of the 64-bit frame (R40). -/
def entriesInFrame (t : List Nat) : Bool := t.all fun i => 1 ≤ i && i ≤ 64

/-- R40: the five tables have the source's lengths and their entries are in 1..64. -/
def tablesOk (c : Tables) : Bool :=
  (c.ip.length == 64 && entriesInFrame c.ip) && (c.fp.length == 64 && entriesInFrame c.fp) &&
  (c.e.length == 48 && entriesInFrame c.e) && (c.p.length == 32 && entriesInFrame c.p) &&
  (c.pc2.length == 48 && entriesInFrame c.pc2)

/-- R40: four boxes of four rows of sixteen values, each in 0..15. -/
def sboxOk (c : Tables) : Bool :=
  c.sbox.length == 4 && c.sbox.all fun box =>
    box.length == 4 && box.all fun row => row.length == 16 && row.all fun v => v ≤ 15

/-- R41, first half: IP_TABLE is a permutation of 1..64 (with `tablesOk`, its 64 entries then occur once each). -/
def ipIsPermutation (c : Tables) : Bool := (List.range 64).all fun k => c.ip.contains (k + 1)

/-- R41, second half: IP_TABLE[FP_TABLE[j] - 1] = j for every j in 1..64 (positions of a list count from 0). -/
def fpInvertsIp (c : Tables) : Bool :=
  (List.range 64).all fun k => c.ip[c.fp.getD k 0 - 1]? == some (k + 1)

/-- R8: BLK_CAP is at least 1. There is no upper bound. -/
def capOk (c : Tables) : Bool := decide (1 ≤ c.blkCap)

/-- What R8, R40 and R41 ask of a configuration. -/
def ok (c : Tables) : Bool := c.tablesOk && c.sboxOk && c.ipIsPermutation && c.fpInvertsIp && c.capOk

/-- TEXT_CAP = 8 * BLK_CAP (R8). -/
def textCap (c : Tables) : Nat := 8 * c.blkCap

/-- A configuration that meets R8, R40 and R41. It only shows that there is one (the `opaque` constant below needs
that); it is no candidate for the engine's tables. -/
def trivial : Tables where
  ip := List.range' 1 64
  fp := List.range' 1 64
  e := List.replicate 48 1
  p := List.replicate 32 1
  pc2 := List.replicate 48 1
  sbox := List.replicate 4 (List.replicate 4 (List.replicate 16 0))
  blkCap := 1

end Tables

/-- A configuration the engine accepts: the tables with the check of R40 and R41 passed, so that an ill-formed one
cannot be built. The default values only show that the type has a value. -/
structure Configuration where
  /-- The parameters themselves. -/
  tables : Tables := Tables.trivial
  /-- They meet R8, R40 and R41. -/
  ok : tables.ok = true := by decide
deriving DecidableEq, Repr, Inhabited

/-- The platform parameters that place and number the engines (spec/20_memory.md R58, spec/60_exceptions.md R229).
No rule gives them a behaviour. -/
structure Platform where
  /-- ENGINE_REG_BASE. -/
  regBase : Nat
  /-- ENGINE_TEXT_BASE. -/
  textBase : Nat
  /-- ENGINE_BLK_BASE. -/
  blkBase : Nat
  /-- ENGINE_COUNT. -/
  engineCount : Nat
deriving DecidableEq, Repr, Inhabited

/-- The configuration the platform fixed for this engine (R8, R242 item 1). It has no body: nothing is known of it
but that it meets R40 and R41 (log 5). -/
opaque Config.engine : Configuration

/-- The platform's placement of the engine (R58, R229; log 11). -/
opaque Config.platform : Platform

/-- Free value: what the n-th read that R245 leaves unspecified returns (spec/70_reset_and_hazards.md R245; log 7). -/
opaque Config.busyRead : Nat → Word

/-- Free value: what DECODE.* leave in TLEN, a 64-bit register, after a text of 2^64 bytes or more, by the length of the
text (spec/44_codec.md R201, R202; log 10). Only an engine of at least 2^61 blocks (R8) can decode one. -/
opaque Config.wideLength : Nat → Word

end Sys2Proof
end

