-- ==== Sys2Proof/Machine/State.lean ====
section
/-! DEFINITION. The state of the engine, everything spec/10_state.md names, as plain data; the reasons a step can stop;
the state after reset (spec/70_reset_and_hazards.md R240). -/

namespace Sys2Proof.Machine

/-- A buffer: its written elements by index. In canonical form the indexes rise strictly; an index that is not
listed has not been written and has no value (spec/10_state.md R35). `Memory 8` is a list of `Host.Cell`. -/
abbrev Memory (width : Nat) := List (Nat × BitVec width)

/-- Which registers without a reset value have been written since reset (R35; log 3). KSCHED writes all of SK at once. -/
structure WrittenRegs where
  key : Bool
  a : Bool
  b : Bool
  y : Bool
  sk : Bool
deriving DecidableEq, Repr

/-- One host transaction (spec/30_encoding.md R80): WR, RD, WRT, RDT, WRB, RDB. -/
inductive HostAccess where
  /-- `WR`: write register `index`. -/
  | writeReg (index : Nat) (value : Word)
  /-- `RD`: read register `index`. -/
  | readReg (index : Nat)
  /-- `WRT`: write TEXT[index]. -/
  | writeText (index : Nat) (value : Byte)
  /-- `RDT`: read TEXT[index]. -/
  | readText (index : Nat)
  /-- `WRB`: write BLK[index]. -/
  | writeBlk (index : Nat) (value : Word)
  /-- `RDB`: read BLK[index]. -/
  | readBlk (index : Nat)
deriving DecidableEq, Repr

/-- Who acts in a step (spec/00_scope.md R14): the host, the engine, or the platform resetting the engine (R240). -/
inductive Turn where
  | host (access : HostAccess)
  | engine
  | reset
deriving DecidableEq, Repr

/-- Why a step stops with a fault. Neither is behaviour of the chip (spec/60_exceptions.md R224). -/
inductive Fault where
  /-- Raised by a host read, with BUSY = 0, of a TEXT or BLK element that nothing has written (R35). Safe: the chip
  returns some value, the model declines to name one. -/
  | unwrittenRead
  /-- Raised by PROC.*, ENCODE and DECODE.* when they read such an element (R35). Safe, as above. -/
  | unwrittenOperand
deriving DecidableEq, Repr

/-- Why a step or a pure function has no answer. -/
inductive Refusal where
  /-- Raised by `exec` for an instruction without a meaning: there is none. Safe. -/
  | notModelled (mnemonic : String)
  /-- `ConfigRefused` of R224, raised by `acceptTables` for tables that break R40 or R41, by `createSubkeysOfNat` for a
  key of 2^56 or more (R126) and by `encodeCodePoints` for a character above 255 (R199). No step raises it. Safe. -/
  | configRefused
deriving DecidableEq, Repr

/-- The state of the engine with the host's pending turns. -/
structure State where
  /-- The configuration, fixed for the life of the engine (R8, R40). -/
  cfg : Configuration
  /-- CMD, index 0 (R21). -/
  cmd : Word
  /-- STATUS, index 1, bits 7:0 (R22). -/
  status : BitVec 8
  /-- KEY, index 2 (R24). -/
  key : Key
  /-- A, index 3 (R25). -/
  a : Word
  /-- B, index 4 (R26). -/
  b : Word
  /-- Y, index 5 (R27). -/
  y : Word
  /-- TLEN, index 6 (R28). -/
  tlen : Word
  /-- BLEN, index 7 (R29). -/
  blen : Word
  /-- SK[0..15], indices 16 to 31 (R30). -/
  sk : Vector Subkey 16
  /-- TEXT (R32). -/
  text : Memory 8
  /-- BLK (R32). -/
  blk : Memory 64
  /-- Which of KEY, A, B, Y and SK have been written since reset (R35; log 3). -/
  written : WrittenRegs
  /-- The model's own: the turns still to be taken, the next one first (R14, R60, R247; log 4). -/
  agenda : List Turn
  /-- The model's own: what the host's reads returned, the latest first (log 6). -/
  replies : List Word
  /-- The model's own: how many free values have been drawn (R245; log 7). -/
  draws : Nat
deriving DecidableEq, Repr

/-- The state after reset (R240). KEY, A, B, Y and SK are 0 by DESIGN CHOICE (log 1, unsafe): R240 leaves them
unspecified. `agenda`, `replies` and `draws` are the model's own (logs 4, 6, 7). -/
def State.reset : State where
  cfg := Config.engine
  cmd := 0
  status := 0
  key := 0
  a := 0
  b := 0
  y := 0
  tlen := 0
  blen := 0
  sk := Vector.replicate 16 0
  text := []
  blk := []
  written := ⟨false, false, false, false, false⟩
  agenda := []
  replies := []
  draws := 0

end Sys2Proof.Machine
end

