-- ==== Sys2Proof/Machine/Flags.lean ====
section
/-! DEFINITION. The fields of STATUS and every change of them (spec/10_state.md R22, spec/70_reset_and_hazards.md R243, R244,
spec/60_exceptions.md R221, R222). The engine has no other flag (R23). -/

namespace Sys2Proof.Machine

/-- BUSY, bit 0 (R22). -/
def State.busy (s : State) : Bool := s.status.getLsbD 0

/-- ILL, bit 1 (R22). -/
def State.ill (s : State) : Bool := s.status.getLsbD 1

/-- CAUSE, bits 7:4 (R22). -/
def State.cause (s : State) : BitVec 4 := s.status.extractLsb' 4 4

/-- STATUS from its fields; bits 3:2 are reserved and read as 0 (R22). -/
def statusOf (busy ill : Bool) (cause : BitVec 4) : BitVec 8 :=
  cause ++ ((0 : BitVec 2) ++ (BitVec.ofBool ill ++ BitVec.ofBool busy))

/-- The CAUSE code of a cause (R221). -/
def causeCode : Cause → BitVec 4
  | .reservedOperation => 1
  | .reservedField => 2
  | .lengthOutOfRange => 3

/-- STATUS at a command's start: BUSY set, ILL and CAUSE cleared (R243). -/
def State.setStarted (s : State) : State := { s with status := statusOf true false 0 }

/-- STATUS of a rejected command: ILL set, CAUSE its code, BUSY cleared (R222). -/
def State.setRejected (s : State) (c : Cause) : State := { s with status := statusOf false true (causeCode c) }

/-- BUSY cleared, the other fields kept: completion of a command (R244 item 4). -/
def State.clearBusy (s : State) : State := { s with status := s.status &&& 0xFE }

end Sys2Proof.Machine
end

