-- ==== Sys2Proof/Machine/Ops.lean ====
section
/-! DEFINITION. The named operations over buffers and registers: element reads and writes (spec/10_state.md R32, R35, R36),
ranges of elements (spec/20_memory.md R55, R57), the result register (R27), the start of a command (R243), the engine's one
exception (spec/60_exceptions.md R222) and the end of a command (R244). -/

namespace Sys2Proof.Machine

/-- The element at an index, none if nothing has written it (R35). -/
def Memory.read {width : Nat} : Memory width → Nat → Option (BitVec width)
  | [], _ => none
  | (j, v) :: m, i => if i = j then some v else Memory.read m i

/-- Stores an element, keeping the indexes rising. -/
def Memory.write {width : Nat} : Memory width → Nat → BitVec width → Memory width
  | [], i, v => [(i, v)]
  | (j, u) :: m, i, v =>
    if i < j then (i, v) :: (j, u) :: m
    else if i = j then (i, v) :: m
    else (j, u) :: Memory.write m i v

/-- The canonical form: the indexes rise strictly. (An unlisted element has no value, so no entry can equal it.) -/
def Memory.wf {width : Nat} (m : Memory width) : Bool := decide ((m.map Prod.fst).Pairwise (· < ·))

/-- Every listed index is below the capacity of the buffer (R32). -/
def Memory.within {width : Nat} (m : Memory width) (cap : Nat) : Bool := m.all fun e => decide (e.1 < cap)

/-- BLK_CAP (R8). -/
def State.blkCap (s : State) : Nat := s.cfg.tables.blkCap

/-- TEXT_CAP (R8). -/
def State.textCap (s : State) : Nat := s.cfg.tables.textCap

/-- TEXT[i]: 0 at an index of TEXT_CAP or more (R36), none where nothing has been written (R35). -/
def State.readText (s : State) (i : Nat) : Option Byte :=
  if i < s.textCap then Memory.read s.text i else some 0

/-- BLK[j]: 0 at an index of BLK_CAP or more (R36), none where nothing has been written (R35). -/
def State.readBlk (s : State) (j : Nat) : Option Word :=
  if j < s.blkCap then Memory.read s.blk j else some 0

/-- TEXT[i] <- v; ignored at an index of TEXT_CAP or more (R36). -/
def State.writeText (s : State) (i : Nat) (v : Byte) : State :=
  if i < s.textCap then { s with text := Memory.write s.text i v } else s

/-- BLK[j] <- v; ignored at an index of BLK_CAP or more (R36). -/
def State.writeBlk (s : State) (j : Nat) (v : Word) : State :=
  if j < s.blkCap then { s with blk := Memory.write s.blk j v } else s

/-- TEXT[start], TEXT[start+1], ... <- the bytes, upward (R55). -/
def State.writeTextFrom (s : State) (start : Nat) : List Byte → State
  | [] => s
  | v :: vs => (s.writeText start v).writeTextFrom (start + 1) vs

/-- BLK[start], BLK[start+1], ... <- the words (R55, R65). -/
def State.writeBlkFrom (s : State) (start : Nat) : List Word → State
  | [] => s
  | v :: vs => (s.writeBlk start v).writeBlkFrom (start + 1) vs

/-- TEXT[start .. start+n-1], none if one of them has never been written (R35). -/
def State.readTextFrom (s : State) (start : Nat) : Nat → Option (List Byte)
  | 0 => some []
  | n + 1 =>
    match s.readText start, s.readTextFrom (start + 1) n with
    | some v, some vs => some (v :: vs)
    | _, _ => none

/-- BLK[start .. start+n-1], none if one of them has never been written (R35). -/
def State.readBlkFrom (s : State) (start : Nat) : Nat → Option (List Word)
  | 0 => some []
  | n + 1 =>
    match s.readBlk start, s.readBlkFrom (start + 1) n with
    | some v, some vs => some (v :: vs)
    | _, _ => none

/-- Y <- v (R27). -/
def State.setY (s : State) (v : Word) : State := { s with y := v, written := { s.written with y := true } }

/-- The entries ks[0] to ks[15] as the contents of SK (R30). A schedule has exactly 16 entries (R122). -/
def skOfList (ks : List Subkey) : Vector Subkey 16 := ⟨((List.range 16).map fun r => ks.getD r 0).toArray, by simp⟩

/-- SK[r] <- ks[r] for r in 0..15 (R30, R124). -/
def State.setSk (s : State) (ks : List Subkey) : State :=
  { s with sk := skOfList ks, written := { s.written with sk := true } }

/-- KEY <- bits 55:0 of a host write (R24). -/
def State.setKey (s : State) (v : Word) : State :=
  { s with key := v.extractLsb' 0 56, written := { s.written with key := true } }

/-- A <- v (R37). -/
def State.setA (s : State) (v : Word) : State := { s with a := v, written := { s.written with a := true } }

/-- B <- v (R37). -/
def State.setB (s : State) (v : Word) : State := { s with b := v, written := { s.written with b := true } }

/-- The start of a command: CMD <- w, BUSY <- 1, ILL <- 0, CAUSE <- 0, nothing else (R243). -/
def State.startCommand (s : State) (w : Word) : State := { s with cmd := w }.setStarted

/-- The engine's one exception, `IllegalCommand(c)` (R222): ILL <- 1, CAUSE <- c, BUSY <- 0, nothing else. There is no
trap entry, saved state or return (R223): the next command start clears ILL and CAUSE. -/
def State.raiseIllegal (s : State) (c : Cause) : State := s.setRejected c

/-- The end of a command: BUSY <- 0 (R244 item 4). -/
def State.complete (s : State) : State := s.clearBusy

/-- Reset (R240, R241): every register and buffer at its reset value, a running command abandoned. The configuration
stays (R240), and so do the model's own agenda, replies and draw counter (log 8). -/
def State.applyReset (s : State) : State :=
  { State.reset with cfg := s.cfg, agenda := s.agenda, replies := s.replies, draws := s.draws }

end Sys2Proof.Machine
end

