-- ==== Sys2Proof/Machine/Operands.lean ====
section
/-! DEFINITION. Every operand form of the commands (spec/20_memory.md R57, spec/10_state.md R25, R26). -/

namespace Sys2Proof.Machine

/-- A as a 64-bit block: PERM.*, CRYPT.* (R25). -/
def State.blockOperand (s : State) : Word := s.a

/-- A[47:0]: SBOX (R25, R154). -/
def State.sboxOperand (s : State) : BitVec 48 := s.a.extractLsb' 0 48

/-- leftHalf = A[63:32]: ROUND (R25, R155). -/
def State.leftOperand (s : State) : Half := s.a.extractLsb' 32 32

/-- rightHalf = A[31:0]: ROUND (R25, R155). -/
def State.rightOperand (s : State) : Half := s.a.extractLsb' 0 32

/-- subkey = B[47:0]: ROUND (R26, R155). -/
def State.subkeyOperand (s : State) : Subkey := s.b.extractLsb' 0 48

/-- The key: KSCHED, CRYPT.*, PROC.* (R24). -/
def State.keyOperand (s : State) : Key := s.key

/-- TEXT[0..TLEN-1]: ENCODE (R57). -/
def State.textOperand (s : State) : Option (List Byte) := s.readTextFrom 0 s.tlen.toNat

/-- BLK[0..BLEN-1]: PROC.*, DECODE.* (R57). -/
def State.blkOperand (s : State) : Option (List Word) := s.readBlkFrom 0 s.blen.toNat

end Sys2Proof.Machine
end

