-- ==== Sys2Proof/Machine/Permute.lean ====
section
/-! DEFINITION. The bit permutation engine (spec/40_permute.md): `permute` and the five PERM commands. -/

namespace Sys2Proof.Machine

/-- The bit a table entry reads: frame position 64 - entry of the 64-bit frame (R100). -/
def frameBit (block : Word) (entry : Nat) : Word := (block >>> (64 - entry)) &&& 1

/-- `permute(block, table)` as an `outWidth`-bit value, the entries in table order and the first one most significant
(R100). A configured table has exactly `outWidth` entries (R40, R101). A value narrower than the frame is handed over
zero-extended to 64 bits and is never re-aligned (R100, R102). -/
def permute (outWidth : Nat) (table : List Nat) (block : Word) : BitVec outWidth :=
  table.foldl (fun out entry => (out <<< 1) ||| (frameBit block entry).setWidth outWidth) 0

/-- PERM.IP (R103). -/
def execPermIp (s : State) : Host.Outcome State Fault Refusal :=
  .next (s.setY (permute 64 s.cfg.tables.ip s.blockOperand))

/-- PERM.FP (R104). -/
def execPermFp (s : State) : Host.Outcome State Fault Refusal :=
  .next (s.setY (permute 64 s.cfg.tables.fp s.blockOperand))

/-- PERM.E (R105): a 48-bit result, zero-extended. -/
def execPermE (s : State) : Host.Outcome State Fault Refusal :=
  .next (s.setY ((permute 48 s.cfg.tables.e s.blockOperand).setWidth 64))

/-- PERM.P (R106): a 32-bit result, zero-extended. -/
def execPermP (s : State) : Host.Outcome State Fault Refusal :=
  .next (s.setY ((permute 32 s.cfg.tables.p s.blockOperand).setWidth 64))

/-- PERM.PC2 (R107): a 48-bit result, zero-extended. -/
def execPermPc2 (s : State) : Host.Outcome State Fault Refusal :=
  .next (s.setY ((permute 48 s.cfg.tables.pc2 s.blockOperand).setWidth 64))

end Sys2Proof.Machine
end

