-- ==== Sys2Proof/Machine/KeySchedule.lean ====
section
/-! DEFINITION. The key schedule generator (spec/41_key_schedule.md): `rotl28`, `createSubkeys` and KSCHED. -/

namespace Sys2Proof.Machine

/-- Rotate a 28-bit half left by one bit (R120); the 28-bit width is the mask `& 0xFFFFFFF`. -/
def rotl28 (bits : KeyHalf) : KeyHalf := (bits <<< 1) ||| (bits >>> 27)

/-- leftKey = key[55:28] (R121). -/
def leftKey (key : Key) : KeyHalf := key.extractLsb' 28 28

/-- rightKey = key[27:0] (R121). -/
def rightKey (key : Key) : KeyHalf := key.extractLsb' 0 28

/-- The next `rounds` subkeys from halves that earlier rounds have rotated: rotate both, concatenate to 56 bits, apply
PC2 (R122). -/
def subkeysFrom (c : Tables) : (rounds : Nat) → KeyHalf → KeyHalf → List Subkey
  | 0, _, _ => []
  | n + 1, l, r =>
    let l' := rotl28 l
    let r' := rotl28 r
    permute 48 c.pc2 ((l' ++ r' : Key).setWidth 64) :: subkeysFrom c n l' r'

/-- `createSubkeys(key)`: the 16 subkeys, round 1 first (R122). -/
def createSubkeys (c : Tables) (key : Key) : List Subkey := subkeysFrom c 16 (leftKey key) (rightKey key)

/-- KSCHED (R124). -/
def execKsched (s : State) : Host.Outcome State Fault Refusal :=
  .next (s.setSk (createSubkeys s.cfg.tables s.keyOperand))

end Sys2Proof.Machine
end

