-- ==== Sys2Proof/Machine/Round.lean ====
section
/-! DEFINITION. The round function (spec/42_round.md): `sbox_sub`, `f` (feistel), `round` (feistelRound), and the SBOX and ROUND commands. -/

namespace Sys2Proof.Machine

/-- SBOX[b][row][col] (R40), a 4-bit value. A configured table has an entry wherever R142 looks (R40). -/
def sboxEntry (c : Tables) (b row col : Nat) : BitVec 4 :=
  BitVec.ofNat 4 (((c.sbox.getD b []).getD row []).getD col 0)

/-- Group g of the 48-bit value, group 0 most significant (R142). -/
def sboxGroup (t : BitVec 48) (g : Nat) : BitVec 6 := t.extractLsb' (42 - 6 * g) 6

/-- row = (bit5 << 1) | bit0, bit 0 the least significant of the group (R142, R9). -/
def sboxRow (grp : BitVec 6) : Nat := 2 * (grp.getLsbD 5).toNat + (grp.getLsbD 0).toNat

/-- col = bits [4:1] (R142). -/
def sboxCol (grp : BitVec 6) : Nat := (grp.extractLsb' 1 4).toNat

/-- `sbox_sub(t)`: the eight looked-up values, group 0 most significant (R142). -/
def sboxSub (c : Tables) (t : BitVec 48) : Half :=
  (List.range 8).foldl
    (fun out g => (out <<< 4) |||
      (sboxEntry c (g % 4) (sboxRow (sboxGroup t g)) (sboxCol (sboxGroup t g))).setWidth 32) 0

/-- `f(rightHalf, subkey)`: expand, mix with the subkey, substitute, permute (R140, R141, R143, R145). -/
def feistel (c : Tables) (rightHalf : Half) (subkey : Subkey) : Half :=
  permute 32 c.p ((sboxSub c (permute 48 c.e (rightHalf.setWidth 64) ^^^ subkey)).setWidth 64)

/-- `round(leftHalf, rightHalf, subkey) -> (newLeft, newRight)` (R144, R145). -/
def feistelRound (c : Tables) (leftHalf rightHalf : Half) (subkey : Subkey) : Half × Half :=
  (rightHalf, leftHalf ^^^ feistel c rightHalf subkey)

/-- SBOX (R154): a 32-bit result, zero-extended. -/
def execSbox (s : State) : Host.Outcome State Fault Refusal :=
  .next (s.setY ((sboxSub s.cfg.tables s.sboxOperand).setWidth 64))

/-- ROUND (R155): Y[63:32] = newLeft, Y[31:0] = newRight. -/
def execRound (s : State) : Host.Outcome State Fault Refusal :=
  let out := feistelRound s.cfg.tables s.leftOperand s.rightOperand s.subkeyOperand
  .next (s.setY (out.1 ++ out.2))

end Sys2Proof.Machine
end

