-- ==== Sys2Proof/Machine/Driver.lean ====
section
/-! DEFINITION. The block cipher driver (spec/43_driver.md): `process_block`, `process`, and CRYPT.* and PROC.*. -/

namespace Sys2Proof.Machine

/-- The schedule in the order the rounds use it: reversed to decrypt (R170). -/
def schedule (c : Tables) (key : Key) (encrypt : Bool) : List Subkey :=
  if encrypt then createSubkeys c key else (createSubkeys c key).reverse

/-- The rounds of a schedule, each round's output fed into the next (R172). -/
def runRounds (c : Tables) : List Subkey → Half × Half → Half × Half
  | [], h => h
  | k :: ks, h => runRounds c ks (feistelRound c h.1 h.2 k)

/-- The initial permutation and the split into leftHalf and rightHalf (R171). -/
def initialHalves (c : Tables) (block : Word) : Half × Half :=
  let x := permute 64 c.ip block
  (x.extractLsb' 32 32, x.extractLsb' 0 32)

/-- The halves joined with a swap, then the final permutation (R173). -/
def finalBlock (c : Tables) (h : Half × Half) : Word := permute 64 c.fp (h.2 ++ h.1)

/-- `process_block(block, key, encrypt)` (R174). -/
def processBlock (c : Tables) (block : Word) (key : Key) (encrypt : Bool) : Word :=
  finalBlock c (runRounds c (schedule c key encrypt) (initialHalves c block))

/-- `process(blocks, key, encrypt)`: each block by itself, in order (R175, R180). -/
def process (c : Tables) (blocks : List Word) (key : Key) (encrypt : Bool) : List Word :=
  blocks.map fun b => processBlock c b key encrypt

/-- CRYPT.ENC and CRYPT.DEC: Y <- process_block(A, KEY, encrypt) (R181, R182). -/
def State.crypt (s : State) (encrypt : Bool) : State :=
  s.setY (processBlock s.cfg.tables s.blockOperand s.keyOperand encrypt)

/-- PROC.ENC and PROC.DEC: BLEN is checked, then BLK[0..BLEN-1] is processed in place (R183, R184). -/
def State.proc (s : State) (encrypt : Bool) : Host.Outcome State Fault Refusal :=
  if s.blkCap < s.blen.toNat then .next (s.raiseIllegal .lengthOutOfRange)
  else match s.blkOperand with
    | none => .fault .unwrittenOperand
    | some blocks => .next (s.writeBlkFrom 0 (process s.cfg.tables blocks s.keyOperand encrypt))

/-- CRYPT.ENC (R181). -/
def execCryptEnc (s : State) : Host.Outcome State Fault Refusal := .next (s.crypt true)

/-- CRYPT.DEC (R182). -/
def execCryptDec (s : State) : Host.Outcome State Fault Refusal := .next (s.crypt false)

/-- PROC.ENC (R183). -/
def execProcEnc (s : State) : Host.Outcome State Fault Refusal := s.proc true

/-- PROC.DEC (R184). -/
def execProcDec (s : State) : Host.Outcome State Fault Refusal := s.proc false

end Sys2Proof.Machine
end

