-- ==== Sys2Proof/Machine/Codec.lean ====
section
/-! DEFINITION. The byte/block codec (spec/44_codec.md): `encode`, `decode`, and ENCODE, DECODE.PT and DECODE.CT. -/

namespace Sys2Proof.Machine

/-- The byte value `paddingLength = 8 - len` of a segment (R190). -/
def paddingLength (segment : List Byte) : Nat := 8 - segment.length

/-- A segment with `paddingLength` bytes of that value appended (R190). -/
def padSegment (segment : List Byte) : List Byte :=
  segment ++ List.replicate (paddingLength segment) (BitVec.ofNat 8 (paddingLength segment))

/-- Packs bytes into one block, the first most significant (R51, R191). -/
def packBytes (bytes : List Byte) : Word := bytes.foldl (fun out b => (out <<< 8) ||| b.setWidth 64) 0

/-- Segment j of a text: at most 8 bytes from byte 8*j on (R190). -/
def textSegment (text : List Byte) (j : Nat) : List Byte := (text.drop (8 * j)).take 8

/-- How many 8-byte windows a text of n bytes has, ceil(n / 8) (R191, R192). -/
def segmentCount (n : Nat) : Nat := (n + 7) / 8

/-- `encode(text)` (R191, R192). -/
def encodeText (text : List Byte) : List Word :=
  (List.range (segmentCount text.length)).map fun j => packBytes (padSegment (textSegment text j))

/-- The 8 bytes of a block, most significant first: byte k is v[63-8k : 56-8k] (R193). -/
def unpackBlock (v : Word) : List Byte := (List.range 8).map fun k => v.extractLsb' (56 - 8 * k) 8

/-- Step 2 of R195: if the last byte p is at most 8, the last min(p, len) bytes go. -/
def stripPadding (out : List Byte) : List Byte :=
  match out.getLast? with
  | none => out
  | some p => if p.toNat ≤ 8 then out.take (out.length - min p.toNat out.length) else out

/-- `decode(blocks, isCiphertextMode)` (R194 to R196). -/
def decodeText (blocks : List Word) (ciphertextMode : Bool) : List Byte :=
  let bytes := blocks.flatMap unpackBlock
  if ciphertextMode then bytes else stripPadding (bytes.filter fun b => b != 0)

/-- What DECODE.* write to TLEN after a text of n bytes (R201, R202): n, and where n does not fit the 64-bit register, of
which no rule states the result, a free value (log 10). -/
def textLength (n : Nat) : Word := if n < 2 ^ 64 then BitVec.ofNat 64 n else Config.wideLength n

/-- DECODE.PT and DECODE.CT: BLEN is checked, then TEXT[0..n-1] and TLEN are written (R201, R202). -/
def State.decodeBlk (s : State) (ciphertextMode : Bool) : Host.Outcome State Fault Refusal :=
  if s.blkCap < s.blen.toNat then .next (s.raiseIllegal .lengthOutOfRange)
  else match s.blkOperand with
    | none => .fault .unwrittenOperand
    | some blocks =>
      let out := decodeText blocks ciphertextMode
      .next { s.writeTextFrom 0 out with tlen := textLength out.length }

/-- ENCODE (R200): TLEN is checked, then BLK[0..ceil(n/8)-1] and BLEN are written. -/
def execEncode (s : State) : Host.Outcome State Fault Refusal :=
  if s.textCap < s.tlen.toNat then .next (s.raiseIllegal .lengthOutOfRange)
  else match s.textOperand with
    | none => .fault .unwrittenOperand
    | some text =>
      let blocks := encodeText text
      .next { s.writeBlkFrom 0 blocks with blen := BitVec.ofNat 64 blocks.length }

/-- DECODE.PT (R201). -/
def execDecodePt (s : State) : Host.Outcome State Fault Refusal := s.decodeBlk false

/-- DECODE.CT (R202). -/
def execDecodeCt (s : State) : Host.Outcome State Fault Refusal := s.decodeBlk true

end Sys2Proof.Machine
end

