-- ==== Sys2Proof/Machine/Dispatch.lean ====
section
/-! DEFINITION. One arm per command: the rule that applies it to the state (spec/70_reset_and_hazards.md R244 item 2). -/

namespace Sys2Proof.Machine

def exec (i : Instr) (s : State) : Host.Outcome State Fault Refusal :=
  match i with
  | .permIp => Sys2Proof.Machine.execPermIp s
  | .permFp => Sys2Proof.Machine.execPermFp s
  | .permE => Sys2Proof.Machine.execPermE s
  | .permP => Sys2Proof.Machine.execPermP s
  | .permPc2 => Sys2Proof.Machine.execPermPc2 s
  | .ksched => Sys2Proof.Machine.execKsched s
  | .sbox => Sys2Proof.Machine.execSbox s
  | .round => Sys2Proof.Machine.execRound s
  | .cryptDec => Sys2Proof.Machine.execCryptDec s
  | .cryptEnc => Sys2Proof.Machine.execCryptEnc s
  | .procDec => Sys2Proof.Machine.execProcDec s
  | .procEnc => Sys2Proof.Machine.execProcEnc s
  | .encode => Sys2Proof.Machine.execEncode s
  | .decodePt => Sys2Proof.Machine.execDecodePt s
  | .decodeCt => Sys2Proof.Machine.execDecodeCt s

end Sys2Proof.Machine
end

