-- ==== Sys2Proof/Machine/HostSide.lean ====
section
/-! DEFINITION. What a host access does: the register window (spec/10_state.md R20, R36, R37), the buffers, the effect of
BUSY (spec/70_reset_and_hazards.md R243, R245); the host programs of spec/30_encoding.md R80, R81 as agendas; and the checked
forms of the pure functions, which refuse what R126, R199 and R224 say a model must refuse. -/

namespace Sys2Proof.Machine

/-- The register window as the host reads it, every register zero-extended to 64 bits (R20, R22, R24, R30); a reserved
index or one outside the window reads 0 (R36). -/
def State.readReg (s : State) (index : Nat) : Word :=
  match index with
  | 0 => s.cmd
  | 1 => s.status.setWidth 64
  | 2 => s.key.setWidth 64
  | 3 => s.a
  | 4 => s.b
  | 5 => s.y
  | 6 => s.tlen
  | 7 => s.blen
  | n => if h : 16 ≤ n ∧ n < 32 then (s.sk[n - 16]'(by omega)).setWidth 64 else 0

/-- A host register write with BUSY = 0: CMD starts a command (R243), KEY keeps bits 55:0 (R24), A, B, TLEN and BLEN
store all 64 bits, and a write to a read-only, reserved or outside index is ignored (R36, R37). -/
def State.writeReg (s : State) (index : Nat) (v : Word) : State :=
  match index with
  | 0 => s.startCommand v
  | 2 => s.setKey v
  | 3 => s.setA v
  | 4 => s.setB v
  | 6 => { s with tlen := v }
  | 7 => { s with blen := v }
  | _ => s

/-- The registers whose read R245 leaves unspecified while BUSY = 1: Y, TLEN, BLEN and SK[r]. -/
def unspecifiedWhileBusy (index : Nat) : Bool :=
  index == 5 || index == 6 || index == 7 || (decide (16 ≤ index) && decide (index < 32))

/-- The bits a read of a register can return: SK[r] has 48, bits 63:48 read as 0 (R30). -/
def registerMask (index : Nat) : Word :=
  if 16 ≤ index ∧ index < 32 then 0x0000FFFFFFFFFFFF else 0xFFFFFFFFFFFFFFFF

/-- A read returns `v` to the host. -/
def State.reply (s : State) (v : Word) : State := { s with replies := v :: s.replies }

/-- A read returns a value nothing constrains but the width of what is read (R245; log 7). -/
def State.replyFree (s : State) (mask : Word) : State :=
  { s with replies := (Config.busyRead s.draws &&& mask) :: s.replies, draws := s.draws + 1 }

/-- A read of a buffer element with BUSY = 0: an element nothing has written has no value (R35). -/
def State.replyElement (s : State) (v : Option Word) : Host.Outcome State Fault Refusal :=
  match v with
  | some v => .next (s.reply v)
  | none => .fault .unwrittenRead

/-- A host access with BUSY = 0 (R20, R32, R36, R37, R243). -/
def State.accessIdle (s : State) (access : HostAccess) : Host.Outcome State Fault Refusal :=
  match access with
  | .writeReg i v => .next (s.writeReg i v)
  | .readReg i => .next (s.reply (s.readReg i))
  | .writeText i v => .next (s.writeText i v)
  | .readText i => s.replyElement ((s.readText i).map fun b => b.setWidth 64)
  | .writeBlk j v => .next (s.writeBlk j v)
  | .readBlk j => s.replyElement (s.readBlk j)

/-- A host access with BUSY = 1 (R245): every write is ignored; STATUS, CMD, KEY, A and B read their values; Y, SK,
TLEN, BLEN and the elements of TEXT and BLK read a free value. An index beyond a buffer is no element and reads 0 (R36). -/
def State.accessBusy (s : State) (access : HostAccess) : Host.Outcome State Fault Refusal :=
  match access with
  | .writeReg _ _ => .next s
  | .readReg i =>
    if unspecifiedWhileBusy i then .next (s.replyFree (registerMask i)) else .next (s.reply (s.readReg i))
  | .writeText _ _ => .next s
  | .readText i => if i < s.textCap then .next (s.replyFree 0xFF) else .next (s.reply 0)
  | .writeBlk _ _ => .next s
  | .readBlk j => if j < s.blkCap then .next (s.replyFree 0xFFFFFFFFFFFFFFFF) else .next (s.reply 0)

/-- One host access (R55, R60). -/
def State.access (s : State) (access : HostAccess) : Host.Outcome State Fault Refusal :=
  if s.busy then s.accessBusy access else s.accessIdle access

/-- `WAIT` (R81): reads of STATUS. `polls` of them come before the engine's step and return BUSY = 1; the read after it
returns BUSY = 0 and ends the loop. The latency is unspecified (R247), so a claim is made for every `polls`. -/
def waitTurns (polls : Nat) : List Turn :=
  List.replicate polls (.host (.readReg 1)) ++ [.engine, .host (.readReg 1)]

/-- `RUN <mnemonic>` (R81): `WR CMD, <word>`, then `WAIT`. -/
def runTurns (i : Instr) (polls : Nat) : List Turn := .host (.writeReg 0 (encode i)) :: waitTurns polls

/-- `WRTS <i>, "<string>"` (R81): one `WRT` for each byte, in order. -/
def writeStringTurns (i : Nat) : List Byte → List Turn
  | [] => []
  | b :: bytes => .host (.writeText i b) :: writeStringTurns (i + 1) bytes

/-- `RDY` (R81): `RD Y`. -/
def readYTurns : List Turn := [.host (.readReg 5)]

/-- The platform fixes a configuration (R242 item 1): tables that break R40 or R41 are refused as a whole. -/
def acceptTables (c : Tables) : Except Refusal Configuration :=
  if h : c.ok = true then .ok ⟨c, h⟩ else .error .configRefused

/-- The pure `createSubkeys` on a number: a key of 2^56 or more is refused (R126). -/
def createSubkeysOfNat (c : Tables) (key : Nat) : Except Refusal (List Subkey) :=
  if key < 2 ^ 56 then .ok (createSubkeys c (BitVec.ofNat 56 key)) else .error .configRefused

/-- The pure `encode` on code points: a character above 255 is refused (R199). -/
def encodeCodePoints (text : List Nat) : Except Refusal (List Word) :=
  if text.all (fun ch => decide (ch ≤ 255)) then .ok (encodeText (text.map (BitVec.ofNat 8)))
  else .error .configRefused

end Sys2Proof.Machine
end

