-- ==== Sys2Proof/Machine/Engine.lean ====
section
/-! DEFINITION. The engine's step (spec/70_reset_and_hazards.md R244) and what each kind of turn does. -/

namespace Sys2Proof.Machine

/-- The end of a command (R244 item 4) after what the command itself did. -/
def completed (o : Host.Outcome State Fault Refusal) : Host.Outcome State Fault Refusal :=
  match o with
  | .next s => .next s.complete
  | .fault f => .fault f
  | .refused r => .refused r

/-- R244 items 1 to 3: decode CMD; apply a legal word's rule (which itself rejects a length out of range, cause 3);
reject every other word with its cause. -/
def State.runCommand (s : State) : Host.Outcome State Fault Refusal :=
  match decode s.cmd with
  | .ok i => exec i s
  | .error c => .next (s.raiseIllegal c)

/-- The engine's turn (R244): while BUSY = 1, its one step; while BUSY = 0 it has none and nothing changes (R231). -/
def State.engineTurn (s : State) : Host.Outcome State Fault Refusal :=
  if s.busy then completed s.runCommand else .next s

/-- One turn of the host, the engine or the platform's reset (R14, R240). -/
def State.takeTurn (s : State) (t : Turn) : Host.Outcome State Fault Refusal :=
  match t with
  | .host access => s.access access
  | .engine => s.engineTurn
  | .reset => .next s.applyReset

/-- The word a loader hands over, of `nbits` bits: what it stores in CMD (R78: a command is one 64-bit word). -/
def fetchWordOf (nbits w : Nat) : Word := BitVec.ofNat 64 (w % 2 ^ nbits)

end Sys2Proof.Machine
end

