-- ==== Sys2Proof/Machine/Step.lean ====
section
/-! DEFINITION. One step of the machine, and how a command word is put where the next step runs it. -/

namespace Sys2Proof.Machine

/-- One step: the next turn of the agenda. With nothing on the agenda the engine moves, so that a command that has
started is completed in the end (R244, R247 weak fairness; log 4). -/
def step (s : State) : Host.Outcome State Fault Refusal :=
  match s.agenda with
  | [] => s.engineTurn
  | t :: rest => ({ s with agenda := rest }).takeTurn t

/-- `s` with the command word `w` started as a host write of CMD with BUSY = 0 starts it (R243), and the engine's turn
next. The engine fetches nothing (R33, R63): CMD with BUSY is where its next command stands (log 9). -/
def State.withFetchWord (s : State) (nbits w : Nat) : State :=
  { s.startCommand (fetchWordOf nbits w) with agenda := .engine :: s.agenda }

end Sys2Proof.Machine
end

