-- ==== Sys2Proof/Safety.lean ====
section
/-! DEFINITION. The terms claims are stated in: the legal values of STATUS and the invariant of the machine; which cells a
command reads (spec/70_reset_and_hazards.md R242) and when a turn reads only cells that have been written, the runs on which the
spec's own model does not stop (spec/10_state.md R35, spec/60_exceptions.md R224); and what "unchanged" means for each part of State. -/

namespace Sys2Proof.Machine

/-- The STATUS values R22 allows: bits 3:2 are 0, ILL = 0 implies CAUSE = 0, ILL = 1 implies CAUSE in 1..3, and a
running command is not yet rejected (R243, R245). -/
def State.legalStatus (s : State) : Bool :=
  s.status.extractLsb' 2 2 == 0 && (s.ill || s.cause == 0) &&
  (!s.ill || (decide (1 ≤ s.cause.toNat) && decide (s.cause.toNat ≤ 3))) && (!s.busy || !s.ill)

/-- The invariant of the machine: STATUS is legal, and both buffers are in canonical form and inside their capacity. -/
structure EngineInv (s : State) : Prop where
  status : s.legalStatus = true
  textRising : Memory.wf s.text = true
  textWithin : Memory.within s.text s.textCap = true
  blkRising : Memory.wf s.blk = true
  blkWithin : Memory.within s.blk s.blkCap = true

/-- The length check of a command passes (R221 cause 3). Commands without a length pass it. -/
def State.lengthOk (s : State) : Instr → Bool
  | .encode => decide (s.tlen.toNat ≤ s.textCap)
  | .procDec | .procEnc | .decodePt | .decodeCt => decide (s.blen.toNat ≤ s.blkCap)
  | .permIp | .permFp | .permE | .permP | .permPc2 | .ksched | .sbox | .round | .cryptDec | .cryptEnc => true

/-- TEXT[0..TLEN-1] has been written. -/
def State.textWritten (s : State) : Bool := s.textOperand.isSome

/-- BLK[0..BLEN-1] has been written. -/
def State.blkWritten (s : State) : Bool := s.blkOperand.isSome

/-- Every operand of the command has been written (R242 item 2, R57). -/
def State.operandsWritten (s : State) : Instr → Bool
  | .permIp | .permFp | .permE | .permP | .permPc2 | .sbox => s.written.a
  | .ksched => s.written.key
  | .round => s.written.a && s.written.b
  | .cryptDec | .cryptEnc => s.written.a && s.written.key
  | .procDec | .procEnc => s.written.key && s.blkWritten
  | .encode => s.textWritten
  | .decodePt | .decodeCt => s.blkWritten

/-- The register an index names holds a value: KEY, A, B, Y, SK[r] once written, every other register always (R35). -/
def State.registerWritten (s : State) (index : Nat) : Bool :=
  match index with
  | 2 => s.written.key
  | 3 => s.written.a
  | 4 => s.written.b
  | 5 => s.written.y
  | n => if 16 ≤ n ∧ n < 32 then s.written.sk else true

/-- A turn reads only cells that have been written: it raises neither `UnwrittenRead` nor `UnwrittenOperand` in the
spec's sense (R224), registers included. -/
def State.turnReadsWritten (s : State) : Turn → Bool
  | .host (.readReg i) => s.registerWritten i || (s.busy && unspecifiedWhileBusy i)
  | .host (.readText i) => s.busy || (s.readText i).isSome
  | .host (.readBlk j) => s.busy || (s.readBlk j).isSome
  | .host (.writeReg _ _) | .host (.writeText _ _) | .host (.writeBlk _ _) | .reset => true
  | .engine =>
    !s.busy || match decode s.cmd with
      | .ok i => !s.lengthOk i || s.operandsWritten i
      | .error _ => true

/-- CMD, KEY, A and B, the registers only the host writes (R20). -/
def SameHostRegisters (s t : State) : Prop := t.cmd = s.cmd ∧ t.key = s.key ∧ t.a = s.a ∧ t.b = s.b

/-- Every register of the window (R20), and which of them have been written (R35). -/
def SameRegisters (s t : State) : Prop :=
  SameHostRegisters s t ∧ t.status = s.status ∧ t.y = s.y ∧ t.tlen = s.tlen ∧ t.blen = s.blen ∧ t.sk = s.sk ∧
  t.written = s.written

/-- Every TEXT byte reads as before, at every index. -/
def SameText (s t : State) : Prop := ∀ i, t.readText i = s.readText i

/-- Every BLK word reads as before, at every index. -/
def SameBlk (s t : State) : Prop := ∀ j, t.readBlk j = s.readBlk j

/-- The configuration (R40) and the model's own agenda, replies and draw counter. -/
def SameOutside (s t : State) : Prop :=
  t.cfg = s.cfg ∧ t.agenda = s.agenda ∧ t.replies = s.replies ∧ t.draws = s.draws

/-- The frame of a command that writes Y (R57, R27): everything but Y, and the record that Y is written. -/
def OnlyYChanges (s t : State) : Prop :=
  SameHostRegisters s t ∧ t.status = s.status ∧ t.tlen = s.tlen ∧ t.blen = s.blen ∧ t.sk = s.sk ∧
  SameText s t ∧ SameBlk s t ∧ SameOutside s t ∧ t.written = { s.written with y := true }

/-- The frame of a command that writes SK (R57, R30). -/
def OnlySkChanges (s t : State) : Prop :=
  SameHostRegisters s t ∧ t.status = s.status ∧ t.tlen = s.tlen ∧ t.blen = s.blen ∧ t.y = s.y ∧
  SameText s t ∧ SameBlk s t ∧ SameOutside s t ∧ t.written = { s.written with sk := true }

/-- The frame of PROC.* (R57): everything but BLK[0..n-1]. -/
def OnlyBlkBelowChanges (n : Nat) (s t : State) : Prop :=
  SameHostRegisters s t ∧ t.status = s.status ∧ t.tlen = s.tlen ∧ t.blen = s.blen ∧ t.y = s.y ∧ t.sk = s.sk ∧
  SameText s t ∧ (∀ j, n ≤ j → t.readBlk j = s.readBlk j) ∧ SameOutside s t ∧ t.written = s.written

/-- The frame of ENCODE (R57): everything but BLK[0..n-1] and BLEN. -/
def OnlyBlkBelowAndBlenChange (n : Nat) (s t : State) : Prop :=
  SameHostRegisters s t ∧ t.status = s.status ∧ t.tlen = s.tlen ∧ t.y = s.y ∧ t.sk = s.sk ∧
  SameText s t ∧ (∀ j, n ≤ j → t.readBlk j = s.readBlk j) ∧ SameOutside s t ∧ t.written = s.written

/-- The frame of DECODE.* (R57): everything but TEXT[0..n-1] and TLEN. -/
def OnlyTextBelowAndTlenChange (n : Nat) (s t : State) : Prop :=
  SameHostRegisters s t ∧ t.status = s.status ∧ t.blen = s.blen ∧ t.y = s.y ∧ t.sk = s.sk ∧
  (∀ i, n ≤ i → t.readText i = s.readText i) ∧ SameBlk s t ∧ SameOutside s t ∧ t.written = s.written

end Sys2Proof.Machine
end

