-- ==== Sys2Proof/Certificates/Slice0/Obligations.lean ====
section
/-! DEFINITION. The statements about the engine, from the numbered rules of spec/. Each docstring names the rules it formalises. -/

open Sys2Proof Sys2Proof.Machine

/-! ### Words and commands -/

/-- R75: each word of the opcode map, written out, decodes to its command. -/
def Obligations.ListedWordsDecode : Prop :=
  decode 0x0000000000000001 = .ok .permIp ∧ decode 0x0000000000000011 = .ok .permFp ∧
  decode 0x0000000000000021 = .ok .permE ∧ decode 0x0000000000000031 = .ok .permP ∧
  decode 0x0000000000000041 = .ok .permPc2 ∧ decode 0x0000000000000002 = .ok .ksched ∧
  decode 0x0000000000000003 = .ok .sbox ∧ decode 0x0000000000000004 = .ok .round ∧
  decode 0x0000000000000005 = .ok .cryptDec ∧ decode 0x0000000000000105 = .ok .cryptEnc ∧
  decode 0x0000000000000006 = .ok .procDec ∧ decode 0x0000000000000106 = .ok .procEnc ∧
  decode 0x0000000000000007 = .ok .encode ∧ decode 0x0000000000000008 = .ok .decodePt ∧
  decode 0x0000000000000108 = .ok .decodeCt

/-- R70 to R73, R75: for every word and command, the word decodes to the command exactly when it is the word the
encoder builds from the command's fields. -/
def Obligations.DecodeInvertsEncode : Prop :=
  ∀ (w : Word) (i : Instr), decode w = .ok i ↔ w = encode i

/-- R76 with R70 to R73: every word that is not a command's, by the field that makes it illegal; a reserved OP is found
first. The fields are those of `CommandWord`, which the decoder does not use. -/
def Obligations.IllegalWordsAndTheirCauses : Prop :=
  ∀ w : Word,
    (decode w = .error .reservedOperation ↔ CommandWord.op w = 0 ∨ 9 ≤ CommandWord.op w) ∧
    (decode w = .error .reservedField ↔
      (1 ≤ CommandWord.op w ∧ CommandWord.op w ≤ 8) ∧
      (CommandWord.rsv w ≠ 0 ∨ (CommandWord.op w ≠ 1 ∧ CommandWord.sel w ≠ 0) ∨
        (CommandWord.op w = 1 ∧ 5 ≤ CommandWord.sel w) ∨
        (CommandWord.op w ≠ 5 ∧ CommandWord.op w ≠ 6 ∧ CommandWord.op w ≠ 8 ∧ CommandWord.d w ≠ 0))) ∧
    ((∃ i, decode w = .ok i) ↔ CommandWord.wellFormed w = true)

/-- R244: while BUSY = 1 and CMD holds a command's word, the engine's turn applies the command and clears BUSY, all in
one step; the turn comes from the head of the agenda, or the agenda is empty (log 4). The second half is the same for a
word that `withFetchWord` starts (log 9). -/
def Obligations.StepRunsTheDecodedCommand : Prop :=
  (∀ (s : State) (rest : List Turn) (i : Instr),
    s.agenda = .engine :: rest ∨ (s.agenda = [] ∧ rest = []) →
    s.busy = true → decode s.cmd = .ok i →
    (∀ t, exec i { s with agenda := rest } = .next t → step s = .next { t with status := t.status &&& 0xFE }) ∧
    (∀ f, exec i { s with agenda := rest } = .fault f → step s = .fault f)) ∧
  (∀ (s : State) (w : Word) (i : Instr) (t : State), decode w = .ok i →
    exec i { s with cmd := w, status := 0x01 } = .next t →
    step (s.withFetchWord 64 w.toNat) = .next { t with status := t.status &&& 0xFE })

/-- R244, R231: while BUSY = 0 the engine has no step: its turn (log 4) changes nothing. -/
def Obligations.IdleEngineTurnChangesNothing : Prop :=
  ∀ (s : State) (rest : List Turn), s.agenda = .engine :: rest ∨ (s.agenda = [] ∧ rest = []) →
    s.busy = false → step s = .next { s with agenda := rest }

/-- R222: a rejected command sets ILL and CAUSE, clears BUSY and changes nothing else: for a reserved OP, for a reserved
field, and for a legal command whose length is out of range (R221). That the engine also moves when the agenda is empty
is the model's choice (log 4). -/
def Obligations.RejectionChangesOnlyStatus : Prop :=
  ∀ (s : State) (rest : List Turn), s.agenda = .engine :: rest ∨ (s.agenda = [] ∧ rest = []) → s.busy = true →
    (decode s.cmd = .error .reservedOperation → step s = .next { s with agenda := rest, status := 0x12 }) ∧
    (decode s.cmd = .error .reservedField → step s = .next { s with agenda := rest, status := 0x22 }) ∧
    (∀ i, decode s.cmd = .ok i → s.lengthOk i = false → step s = .next { s with agenda := rest, status := 0x32 })

/-- R221 cause 3: which commands are turned away for a length, and when. -/
def Obligations.LengthsOutOfRangeAreRejected : Prop :=
  ∀ s : State,
    (s.textCap < s.tlen.toNat → exec .encode s = .next { s with status := 0x32 }) ∧
    (s.blkCap < s.blen.toNat →
      exec .procEnc s = .next { s with status := 0x32 } ∧ exec .procDec s = .next { s with status := 0x32 } ∧
      exec .decodePt s = .next { s with status := 0x32 } ∧ exec .decodeCt s = .next { s with status := 0x32 })

/-- R35, R224: a command whose length is in range and that reads an element nothing has written faults (log 2). -/
def Obligations.UnwrittenElementsFault : Prop :=
  ∀ s : State,
    (s.tlen.toNat ≤ s.textCap → (∃ i, i < s.tlen.toNat ∧ s.readText i = none) →
      exec .encode s = .fault .unwrittenOperand) ∧
    (s.blen.toNat ≤ s.blkCap → (∃ j, j < s.blen.toNat ∧ s.readBlk j = none) →
      exec .procEnc s = .fault .unwrittenOperand ∧ exec .procDec s = .fault .unwrittenOperand ∧
      exec .decodePt s = .fault .unwrittenOperand ∧ exec .decodeCt s = .fault .unwrittenOperand)

/-! ### The permutation primitive -/

/-- R100: entry j of the table reads bit 64 - entry of the block and becomes output bit L - 1 - j. -/
def Obligations.PermuteReadsFramePositions : Prop :=
  ∀ (table : List Nat) (block : Word), (∀ e ∈ table, 1 ≤ e ∧ e ≤ 64) → ∀ (j : Nat) (h : j < table.length),
    (permute table.length table block).getLsbD (table.length - 1 - j) = block.getLsbD (64 - table[j])

/-- R102: an entry of at most 64 - w reads 0 in a value below 2^w; for half-blocks, 48-bit values and 56-bit keys those
are the entries 1..32, 1..16 and 1..8. -/
def Obligations.NarrowValuesReadZero : Prop :=
  (∀ (table : List Nat) (block : Word) (w : Nat), (∀ e ∈ table, 1 ≤ e ∧ e ≤ 64) → block.toNat < 2 ^ w →
    ∀ (j : Nat) (h : j < table.length), table[j] ≤ 64 - w →
      (permute table.length table block).getLsbD (table.length - 1 - j) = false) ∧
  (∀ (table : List Nat) (v : BitVec 32), (∀ e ∈ table, 1 ≤ e ∧ e ≤ 32) → permute table.length table (v.setWidth 64) = 0) ∧
  (∀ (table : List Nat) (v : BitVec 48), (∀ e ∈ table, 1 ≤ e ∧ e ≤ 16) → permute table.length table (v.setWidth 64) = 0) ∧
  (∀ (table : List Nat) (v : BitVec 56), (∀ e ∈ table, 1 ≤ e ∧ e ≤ 8) → permute table.length table (v.setWidth 64) = 0)

/-- R108: the five laws of `permute`. -/
def Obligations.PermuteLaws : Prop :=
  (∀ (T : List Nat), permute T.length T 0 = 0) ∧
  (∀ (T : List Nat) (a b : Word), permute T.length T (a ^^^ b) = permute T.length T a ^^^ permute T.length T b) ∧
  (∀ (T : List Nat) (a b : Word), (∀ e ∈ T, 1 ≤ e ∧ e ≤ 64) →
    (∀ e ∈ T, a.getLsbD (64 - e) = b.getLsbD (64 - e)) → permute T.length T a = permute T.length T b) ∧
  (∀ a : Word, permute 64 (List.range' 1 64) a = a) ∧
  (∀ (T1 T2 : List Nat) (a : Word), T1.length = 64 → (∀ e ∈ T1, 1 ≤ e ∧ e ≤ 64) → (∀ e ∈ T2, 1 ≤ e ∧ e ≤ 64) →
    permute T2.length T2 (permute 64 T1 a) = permute T2.length (T2.map fun k => T1.getD (k - 1) 0) a)

/-- R41: under every accepted configuration FP undoes IP, and IP undoes FP. -/
def Obligations.FinalPermutationInvertsInitial : Prop :=
  ∀ (cfg : Configuration) (x : Word),
    permute 64 cfg.tables.fp (permute 64 cfg.tables.ip x) = x ∧
    permute 64 cfg.tables.ip (permute 64 cfg.tables.fp x) = x

/-- R40, R41, R8: which tables are accepted, with every BLK_CAP of at least 1; all others are refused as a whole. -/
def Obligations.ConfigurationsAccepted : Prop :=
  ∀ c : Tables,
    let good :=
      (c.ip.length = 64 ∧ c.fp.length = 64 ∧ c.e.length = 48 ∧ c.p.length = 32 ∧ c.pc2.length = 48) ∧
      (∀ e ∈ c.ip ++ c.fp ++ c.e ++ c.p ++ c.pc2, 1 ≤ e ∧ e ≤ 64) ∧
      (c.sbox.length = 4 ∧ ∀ box ∈ c.sbox, box.length = 4 ∧ ∀ row ∈ box, row.length = 16 ∧ ∀ v ∈ row, v ≤ 15) ∧
      c.ip.Nodup ∧ (∀ j, 1 ≤ j → j ≤ 64 → ∃ k, c.fp[j - 1]? = some k ∧ c.ip[k - 1]? = some j) ∧
      1 ≤ c.blkCap
    (good → ∃ cfg, acceptTables c = .ok cfg ∧ cfg.tables = c) ∧
    (¬good → acceptTables c = .error .configRefused)

/-- R103 to R107, R27: each PERM command completes in every state; output bit L - 1 - j of Y is bit 64 - entry of A, the
bits of Y from L up are 0, and only Y changes. That A reads as 0 before its first write is the model's (log 1). -/
def Obligations.PermCommandsSelectBitsOfA : Prop :=
  ∀ (s : State) (i : Instr) (T : List Nat),
    (i, T) ∈ [(Instr.permIp, s.cfg.tables.ip), (.permFp, s.cfg.tables.fp), (.permE, s.cfg.tables.e),
      (.permP, s.cfg.tables.p), (.permPc2, s.cfg.tables.pc2)] →
    ∃ t, exec i s = .next t ∧
      (∀ (j : Nat) (h : j < T.length), t.y.getLsbD (T.length - 1 - j) = s.a.getLsbD (64 - T[j])) ∧
      (∀ k, T.length ≤ k → t.y.getLsbD k = false) ∧
      OnlyYChanges s t

/-! ### The key schedule -/

/-- R120: bit 27 moves to bit 0, the others up one place, and 28 rotations give the value back. -/
def Obligations.RotationByOneBit : Prop :=
  ∀ b : KeyHalf, rotl28 b = ((b.setWidth 32 <<< 1 ||| b.setWidth 32 >>> 27) &&& 0xFFFFFFF).setWidth 28 ∧
    (rotl28 b).getLsbD 0 = b.getLsbD 27 ∧ (∀ k, k < 27 → (rotl28 b).getLsbD (k + 1) = b.getLsbD k) ∧
    rotl28^[28] b = b

/-- R122: 16 subkeys; both halves are rotated by one bit before each, on top of the earlier rotations, and PC2 is applied
to their 56-bit concatenation. -/
def Obligations.ScheduleRotatesThenCompresses : Prop :=
  ∀ (c : Tables) (key : Key), (createSubkeys c key).length = 16 ∧
    ∃ L R : Nat → KeyHalf, L 0 = key.extractLsb' 28 28 ∧ R 0 = key.extractLsb' 0 28 ∧
      ∀ r, r < 16 → L (r + 1) = (L r).rotateLeft 1 ∧ R (r + 1) = (R r).rotateLeft 1 ∧
        (createSubkeys c key)[r]? = some (permute 48 c.pc2 ((L (r + 1) ++ R (r + 1) : BitVec 56).setWidth 64))

/-- R125: the width and count laws of the schedule. -/
def Obligations.ScheduleWidthAndCountLaws : Prop :=
  ∀ cfg : Configuration,
    (∀ key, (createSubkeys cfg.tables key).length = 16 ∧ ∀ k ∈ createSubkeys cfg.tables key, k.toNat < 2 ^ 48) ∧
    (∀ (key : Key) (j : Nat) (h : j < cfg.tables.pc2.length), cfg.tables.pc2[j] ≤ 8 →
      ∀ k ∈ createSubkeys cfg.tables key, k.getLsbD (47 - j) = false) ∧
    createSubkeys cfg.tables 0 = List.replicate 16 0 ∧
    createSubkeys cfg.tables 0xFFFFFFFFFFFFFF = List.replicate 16 (permute 48 cfg.tables.pc2 0xFFFFFFFFFFFFFF) ∧
    (∀ key : Key, (leftKey key = 0xAAAAAAA ∨ leftKey key = 0x5555555) →
      (rightKey key = 0xAAAAAAA ∨ rightKey key = 0x5555555) →
      ∀ r, r + 2 < 16 → (createSubkeys cfg.tables key)[r]? = (createSubkeys cfg.tables key)[r + 2]?)

/-- R124, R123, R30: KSCHED completes in every state; SK[r] is PC2 of the halves of KEY rotated r + 1 times, and only SK
changes. That KEY reads as 0 before its first write is the model's (log 1). -/
def Obligations.KschedWritesTheSchedule : Prop :=
  ∀ s : State, ∃ t, exec .ksched s = .next t ∧
    (∀ (r : Nat) (h : r < 16), t.sk[r] =
      permute 48 s.cfg.tables.pc2 (((s.key.extractLsb' 28 28 : KeyHalf).rotateLeft (r + 1) ++
        (s.key.extractLsb' 0 28 : KeyHalf).rotateLeft (r + 1) : BitVec 56).setWidth 64)) ∧
    OnlySkChanges s t

/-- R126, R199, R224: the pure functions refuse a key of 2^56 or more and a character above 255, and answer otherwise. -/
def Obligations.PureFunctionsRefuseWideArguments : Prop :=
  (∀ (c : Tables) (key : Nat), 2 ^ 56 ≤ key → createSubkeysOfNat c key = .error .configRefused) ∧
  (∀ (c : Tables) (key : Key), createSubkeysOfNat c key.toNat = .ok (createSubkeys c key)) ∧
  (∀ text : List Nat, (∃ ch ∈ text, 255 < ch) → encodeCodePoints text = .error .configRefused) ∧
  (∀ text : List Byte, encodeCodePoints (text.map BitVec.toNat) = .ok (encodeText text))

/-! ### The round function -/

/-- R142: nibble g of the result, the first most significant, is SBOX[g mod 4][row][col] for the row and column of the
6-bit group g, whose bits are 47-6g down to 42-6g. -/
def Obligations.SboxLooksUpEachGroup : Prop :=
  ∀ (cfg : Configuration) (t : BitVec 48) (g : Nat), g < 8 →
    ∃ box row v, cfg.tables.sbox[g % 4]? = some box ∧
      box[2 * (t.getLsbD (47 - 6 * g)).toNat + (t.getLsbD (42 - 6 * g)).toNat]? = some row ∧
      row[(t.extractLsb' (43 - 6 * g) 4).toNat]? = some v ∧
      ((sboxSub cfg.tables t).extractLsb' (28 - 4 * g) 4).toNat = v

/-- R146: a round is undone by the round function on its output with the halves swapped. -/
def Obligations.RoundUndoneBySwappedRound : Prop :=
  ∀ (c : Tables) (L R : Half) (K : Subkey),
    let out := feistelRound c L R K
    feistelRound c out.2 out.1 K = (R, L) ∧ R = out.1 ∧ L = out.2 ^^^ feistel c out.1 K

/-- R150: what the 64-bit frame makes of P and E tables with narrow entries. -/
def Obligations.NarrowTablesWeakenTheRound : Prop :=
  ∀ cfg : Configuration,
    ((∀ e ∈ cfg.tables.p, e ≤ 32) → ∀ (L R : Half) (K : Subkey),
      feistel cfg.tables R K = 0 ∧ feistelRound cfg.tables L R K = (R, L)) ∧
    ((∀ e ∈ cfg.tables.e, e ≤ 32) → ∀ (R : Half) (K : Subkey),
      permute 48 cfg.tables.e (R.setWidth 64) = 0 ∧
      feistel cfg.tables R K = permute 32 cfg.tables.p ((sboxSub cfg.tables K).setWidth 64)) ∧
    (∀ (R R' : Half) (K : Subkey),
      (∀ e ∈ cfg.tables.e, 33 ≤ e → R.getLsbD (64 - e) = R'.getLsbD (64 - e)) →
      feistel cfg.tables R K = feistel cfg.tables R' K) ∧
    (∀ (R : Half) (K : Subkey) (j : Nat) (h : j < cfg.tables.p.length), cfg.tables.p[j] ≤ 32 →
      (feistel cfg.tables R K).getLsbD (31 - j) = false)

/-- R154, R142, R27: SBOX completes in every state; nibble g of Y is the entry group g of A[47:0] selects, Y[63:32] = 0,
A[63:48] plays no part, and only Y changes. An A that nothing has written reads as 0 (log 1). -/
def Obligations.SboxCommandSubstitutesA : Prop :=
  ∀ s : State, ∃ t, exec .sbox s = .next t ∧
    (∀ g, g < 8 → ∃ box row v, s.cfg.tables.sbox[g % 4]? = some box ∧
      box[2 * (s.a.getLsbD (47 - 6 * g)).toNat + (s.a.getLsbD (42 - 6 * g)).toNat]? = some row ∧
      row[(s.a.extractLsb' (43 - 6 * g) 4).toNat]? = some v ∧ (t.y.extractLsb' (28 - 4 * g) 4).toNat = v) ∧
    t.y.extractLsb' 32 32 = 0 ∧ OnlyYChanges s t

/-- R155, R140 to R145: ROUND completes in every state; Y[63:32] = A[31:0], Y[31:0] is A[63:32] XOR P of the S-boxes of E
of A[31:0] XOR B[47:0], and only Y changes. An A or B that nothing has written reads as 0 (log 1). -/
def Obligations.RoundCommandComputesOneRound : Prop :=
  ∀ s : State, ∃ t, exec .round s = .next t ∧
    t.y.extractLsb' 32 32 = s.a.extractLsb' 0 32 ∧
    t.y.extractLsb' 0 32 = s.a.extractLsb' 32 32 ^^^
      permute 32 s.cfg.tables.p ((sboxSub s.cfg.tables
        (permute 48 s.cfg.tables.e ((s.a.extractLsb' 0 32).setWidth 64) ^^^ s.b.extractLsb' 0 48)).setWidth 64) ∧
    OnlyYChanges s t

/-! ### The block cipher driver -/

/-- R174 (R170 to R173): IP, split, sixteen rounds with the schedule in its order, swap, FP. -/
def Obligations.BlockFunctionIsSixteenRounds : Prop :=
  ∀ (c : Tables) (block : Word) (key : Key) (encrypt : Bool),
    ∃ L R : Nat → Half,
      L 0 = (permute 64 c.ip block).extractLsb' 32 32 ∧ R 0 = (permute 64 c.ip block).extractLsb' 0 32 ∧
      (∀ r, r < 16 → ∃ k, (createSubkeys c key)[if encrypt then r else 15 - r]? = some k ∧
        (L (r + 1), R (r + 1)) = feistelRound c (L r) (R r) k) ∧
      processBlock c block key encrypt = permute 64 c.fp (R 16 ++ L 16)

/-- R176: under every accepted configuration decryption undoes encryption and encryption undoes decryption, for every
key and block; and the source's "Schedule symmetry" behind it, for all tables: after i decryption rounds the halves are
those after 16 - i encryption rounds, swapped. -/
def Obligations.DecryptionInvertsEncryption : Prop :=
  (∀ (cfg : Configuration) (key : Key) (m : Word),
    processBlock cfg.tables (processBlock cfg.tables m key true) key false = m ∧
    processBlock cfg.tables (processBlock cfg.tables m key false) key true = m) ∧
  (∀ (c : Tables) (key : Key) (h : Half × Half) (i : Nat), i ≤ 16 →
    let final := runRounds c (createSubkeys c key) h
    runRounds c ((createSubkeys c key).reverse.take i) (final.2, final.1) =
      ((runRounds c ((createSubkeys c key).take (16 - i)) h).2, (runRounds c ((createSubkeys c key).take (16 - i)) h).1))

/-- R178: with every P entry in 1..32 the cipher is IP, a swap of the halves, and FP, whatever the key and direction. -/
def Obligations.NarrowPTableIgnoresTheKey : Prop :=
  ∀ cfg : Configuration, (∀ e ∈ cfg.tables.p, e ≤ 32) → ∀ (m : Word) (key : Key) (encrypt : Bool),
    processBlock cfg.tables m key encrypt =
      permute 64 cfg.tables.fp ((permute 64 cfg.tables.ip m).extractLsb' 0 32 ++ (permute 64 cfg.tables.ip m).extractLsb' 32 32)

/-- R179: with a palindromic schedule both directions agree and encryption is its own inverse; the all-zero and the
all-ones key have one under every configuration. -/
def Obligations.PalindromicSchedules : Prop :=
  ∀ cfg : Configuration,
    (∀ key : Key, createSubkeys cfg.tables key = (createSubkeys cfg.tables key).reverse → ∀ m : Word,
      processBlock cfg.tables m key true = processBlock cfg.tables m key false ∧
      processBlock cfg.tables (processBlock cfg.tables m key true) key true = m) ∧
    createSubkeys cfg.tables 0 = (createSubkeys cfg.tables 0).reverse ∧
    createSubkeys cfg.tables 0xFFFFFFFFFFFFFF = (createSubkeys cfg.tables 0xFFFFFFFFFFFFFF).reverse

/-- R175, R180: the sequence function gives as many blocks in the same order, output block j depends on input block j and
the key alone, and the empty list gives the empty list. -/
def Obligations.BlocksAreIndependent : Prop :=
  ∀ (c : Tables) (key : Key) (encrypt : Bool),
    process c [] key encrypt = [] ∧
    ∀ blocks : List Word, (process c blocks key encrypt).length = blocks.length ∧
      ∀ (j : Nat) (b : Word), blocks[j]? = some b →
        (process c blocks key encrypt)[j]? = some (processBlock c b key encrypt)

/-- R181, R182: CRYPT.ENC and CRYPT.DEC complete in every state; Y is the block function of A and KEY, only Y changes.
An A or KEY that nothing has written reads as 0 (log 1). -/
def Obligations.CryptCommandsProcessA : Prop :=
  ∀ s : State,
    (∃ t, exec .cryptEnc s = .next t ∧ t.y = processBlock s.cfg.tables s.a s.key true ∧ OnlyYChanges s t) ∧
    (∃ t, exec .cryptDec s = .next t ∧ t.y = processBlock s.cfg.tables s.a s.key false ∧ OnlyYChanges s t)

/-- R182, R181 with R176: on the machine, CRYPT.DEC after CRYPT.ENC of any A, with the result written back to A and the
same KEY, returns A; and the other way round. An A or KEY that nothing has written reads as 0 (log 1). -/
def Obligations.CryptDecUndoesCryptEnc : Prop :=
  ∀ s : State,
    (∃ t u, exec .cryptEnc s = .next t ∧ exec .cryptDec (t.setA t.y) = .next u ∧ u.y = s.a) ∧
    (∃ t u, exec .cryptDec s = .next t ∧ exec .cryptEnc (t.setA t.y) = .next u ∧ u.y = s.a)

/-- R183, R184: with BLEN in range and BLK[0..BLEN-1] written, PROC.* complete; each BLK[j] below BLEN becomes the block
function of itself and KEY, and nothing else changes. A KEY that nothing has written reads as 0 (log 1). -/
def Obligations.ProcCommandsWorkInPlace : Prop :=
  ∀ (s : State) (i : Instr) (encrypt : Bool), (i, encrypt) ∈ [(Instr.procEnc, true), (.procDec, false)] →
    s.blen.toNat ≤ s.blkCap → (∀ j, j < s.blen.toNat → (s.readBlk j).isSome) →
    ∃ t, exec i s = .next t ∧
      (∀ j, j < s.blen.toNat →
        t.readBlk j = (s.readBlk j).map fun b => processBlock s.cfg.tables b s.key encrypt) ∧
      OnlyBlkBelowChanges s.blen.toNat s t

/-- R184 with R176: on the machine, PROC.DEC after PROC.ENC gives the whole state back, and the other way round, from a
state that meets the invariant. A KEY that nothing has written reads as 0 (log 1). -/
def Obligations.ProcDecUndoesProcEnc : Prop :=
  ∀ s : State, EngineInv s → s.blen.toNat ≤ s.blkCap → (∀ j, j < s.blen.toNat → (s.readBlk j).isSome) →
    (∃ t, exec .procEnc s = .next t ∧ exec .procDec t = .next s) ∧
    (∃ t, exec .procDec s = .next t ∧ exec .procEnc t = .next s)

/-! ### The codec -/

/-- R51, R193: byte k of a block is bits 63-8k down to 56-8k, packing and unpacking both; the two are inverse. -/
def Obligations.BlocksPackBigEndian : Prop :=
  (∀ (bytes : List Byte), bytes.length = 8 → ∀ (k : Nat) (b : Byte), bytes[k]? = some b →
    (packBytes bytes).extractLsb' (56 - 8 * k) 8 = b) ∧
  (∀ (v : Word) (k : Nat), k < 8 → (unpackBlock v)[k]? = some (v.extractLsb' (56 - 8 * k) 8)) ∧
  (∀ v : Word, (unpackBlock v).length = 8 ∧ packBytes (unpackBlock v) = v) ∧
  (∀ bytes : List Byte, bytes.length = 8 → unpackBlock (packBytes bytes) = bytes)

/-- R190, R191, R192: ceil(n/8) blocks; byte k of block j is text byte 8j+k, and past the end of the text the padding
value 8 - (n mod 8). -/
def Obligations.EncodePadsTheLastSegment : Prop :=
  ∀ text : List Byte, (encodeText text).length = (text.length + 7) / 8 ∧
    ∀ (j : Nat) (v : Word), (encodeText text)[j]? = some v → ∀ k, k < 8 →
      some (v.extractLsb' (56 - 8 * k) 8) =
        if 8 * j + k < text.length then text[8 * j + k]? else some (BitVec.ofNat 8 (8 - text.length % 8))

/-- R194: in ciphertext mode the output has exactly 8 bytes a block, and byte 8j+k is byte k of block j. -/
def Obligations.CiphertextDecodeKeepsEveryByte : Prop :=
  ∀ blocks : List Word, (decodeText blocks true).length = 8 * blocks.length ∧
    ∀ (j : Nat) (v : Word), blocks[j]? = some v → ∀ k, k < 8 →
      (decodeText blocks true)[8 * j + k]? = some (v.extractLsb' (56 - 8 * k) 8)

/-- R195, R196: plaintext-recovery mode drops every zero byte, and then, if the last byte p is at most 8, the last
min(p, len) bytes. -/
def Obligations.PlaintextDecodeDropsZerosAndStrips : Prop :=
  ∀ blocks : List Word,
    let nz := (decodeText blocks true).filter (· ≠ 0)
    (nz = [] → decodeText blocks false = []) ∧
    (∀ (front : List Byte) (p : Byte), nz = front ++ [p] →
      (8 < p.toNat → decodeText blocks false = nz) ∧
      (p.toNat ≤ 8 → decodeText blocks false = nz.take (nz.length - min p.toNat nz.length)))

/-- R197: the round trip of the codec, exactly, and through the cipher for every key. -/
def Obligations.CodecRoundTripLaw : Prop :=
  ∀ t : List Byte,
    let n := t.length
    let nz := fun u : List Byte => u.filter (· ≠ 0)
    let pad := List.replicate (if n % 8 = 0 then 0 else 8 - n % 8) (BitVec.ofNat 8 (8 - n % 8))
    decodeText (encodeText t) false = stripPadding (nz (t ++ pad)) ∧
    (n % 8 ≠ 0 → decodeText (encodeText t) false = nz t) ∧
    (n = 0 → decodeText (encodeText t) false = []) ∧
    (0 < n → n % 8 = 0 → decodeText (encodeText t) false = stripPadding (nz t)) ∧
    (decodeText (encodeText t) false = t ↔
      (0 : Byte) ∉ t ∧ (n % 8 ≠ 0 ∨ n = 0 ∨ ∃ p, t.getLast? = some p ∧ 8 < p.toNat)) ∧
    decodeText (encodeText t) true = t ++ pad ∧
    ∀ (cfg : Configuration) (key : Key),
      decodeText (process cfg.tables (process cfg.tables (encodeText t) key true) key false) false =
        decodeText (encodeText t) false

/-- R200: with TLEN in range and TEXT[0..TLEN-1] written, ENCODE completes; BLEN is ceil(TLEN/8), byte k of BLK[j] is
TEXT[8j+k] or, past TLEN, the padding value, and nothing else changes. -/
def Obligations.EncodeCommandPacksText : Prop :=
  ∀ s : State, s.tlen.toNat ≤ s.textCap → (∀ i, i < s.tlen.toNat → (s.readText i).isSome) →
    ∃ t, exec .encode s = .next t ∧ t.blen.toNat = (s.tlen.toNat + 7) / 8 ∧
      (∀ j, j < (s.tlen.toNat + 7) / 8 → ∃ v, t.readBlk j = some v ∧ ∀ k, k < 8 →
        some (v.extractLsb' (56 - 8 * k) 8) =
          if 8 * j + k < s.tlen.toNat then s.readText (8 * j + k)
          else some (BitVec.ofNat 8 (8 - s.tlen.toNat % 8))) ∧
      OnlyBlkBelowAndBlenChange ((s.tlen.toNat + 7) / 8) s t

/-- R202: with BLEN in range and BLK[0..BLEN-1] written, DECODE.CT completes; TLEN is 8 * BLEN, TEXT[8j+k] is byte k of
BLK[j], and nothing else changes. No rule states TLEN for a text of 2^64 bytes or more: it is free there (log 10). -/
def Obligations.DecodeCtCommandUnpacksBlocks : Prop :=
  ∀ s : State, s.blen.toNat ≤ s.blkCap → (∀ j, j < s.blen.toNat → (s.readBlk j).isSome) →
    ∃ t, exec .decodeCt s = .next t ∧ (8 * s.blen.toNat < 2 ^ 64 → t.tlen.toNat = 8 * s.blen.toNat) ∧
      (∀ j k, j < s.blen.toNat → k < 8 →
        t.readText (8 * j + k) = (s.readBlk j).map fun v => v.extractLsb' (56 - 8 * k) 8) ∧
      OnlyTextBelowAndTlenChange (8 * s.blen.toNat) s t

/-- R201: with BLEN in range and BLK[0..BLEN-1] written, DECODE.PT completes; TEXT from 0 on is the plaintext decode of
those blocks, TLEN its length, at most 8 * BLEN, and nothing else changes. No rule states TLEN for a text of 2^64 bytes
or more: it is free there (log 10). -/
def Obligations.DecodePtCommandRecoversText : Prop :=
  ∀ (s : State) (blocks : List Word), s.blen.toNat ≤ s.blkCap → blocks.length = s.blen.toNat →
    (∀ j, j < s.blen.toNat → s.readBlk j = blocks[j]?) →
    let out := decodeText blocks false
    ∃ t, exec .decodePt s = .next t ∧ (out.length < 2 ^ 64 → t.tlen.toNat = out.length) ∧
      out.length ≤ 8 * s.blen.toNat ∧ t.tlen.toNat ≤ 8 * s.blen.toNat ∧
      (∀ i, i < out.length → t.readText i = out[i]?) ∧
      OnlyTextBelowAndTlenChange out.length s t

/-- R197 on the machine: ENCODE, PROC.ENC, PROC.DEC, DECODE.PT in turn all complete and leave TLEN and every TEXT byte as
they were, for every key, when the text has no zero byte and either its length is no multiple of 8, or it is empty, or
its last byte is above 8. A KEY that nothing has written reads as 0 (log 1). -/
def Obligations.TextSurvivesThePipeline : Prop :=
  ∀ (s : State) (text : List Byte), s.tlen.toNat ≤ s.textCap → text.length = s.tlen.toNat →
    (∀ i, i < s.tlen.toNat → s.readText i = text[i]?) → (0 : Byte) ∉ text →
    (text.length % 8 ≠ 0 ∨ text = [] ∨ ∃ p, text.getLast? = some p ∧ 8 < p.toNat) →
    ∃ s1 s2 s3 s4, exec .encode s = .next s1 ∧ exec .procEnc s1 = .next s2 ∧ exec .procDec s2 = .next s3 ∧
      exec .decodePt s3 = .next s4 ∧ s4.tlen = s.tlen ∧ SameText s s4

/-! ### The host side -/

/-- R240: after reset CMD, STATUS, TLEN and BLEN are 0, and KEY, A, B, Y, SK and every buffer element are unwritten; a
reset turn gives this at any time, also with a command running, and keeps the configuration. The values KEY, A, B, Y and
SK then read are the model's choice (log 1) and no part of this; `written` records which are unwritten (log 3). -/
def Obligations.ResetState : Prop :=
  (let r := State.reset
   r.cmd = 0 ∧ r.status = 0 ∧ r.tlen = 0 ∧ r.blen = 0 ∧ r.written = ⟨false, false, false, false, false⟩ ∧
    (∀ i, i < r.textCap → r.readText i = none) ∧ (∀ j, j < r.blkCap → r.readBlk j = none)) ∧
  (∀ (s : State) (rest : List Turn), s.agenda = .reset :: rest →
    ∃ r, step s = .next r ∧ r.cmd = 0 ∧ r.status = 0 ∧ r.tlen = 0 ∧ r.blen = 0 ∧
      r.written = ⟨false, false, false, false, false⟩ ∧
      (∀ i, i < r.textCap → r.readText i = none) ∧ (∀ j, j < r.blkCap → r.readBlk j = none) ∧ r.cfg = s.cfg)

/-- R243: a host write of w to CMD while BUSY = 0 latches w, sets BUSY, clears ILL and CAUSE and changes nothing else. -/
def Obligations.CmdWriteStartsACommand : Prop :=
  ∀ (s : State) (rest : List Turn) (w : Word), s.agenda = .host (.writeReg 0 w) :: rest → s.busy = false →
    ∃ t, step s = .next t ∧ t = { s with agenda := rest, cmd := w, status := t.status } ∧
      t.busy = true ∧ t.ill = false ∧ t.cause = 0 ∧ t.status.extractLsb' 2 2 = 0

/-- R245: while BUSY = 1 every host write is ignored; reads of STATUS, CMD, KEY, A and B return those registers, STATUS
being BUSY alone; a read of Y, SK, TLEN, BLEN or an element of TEXT or BLK returns some value (log 7) and changes nothing of
the engine; a reserved index, one of 32 or more and one beyond a buffer read 0 (R36; that they do so while BUSY = 1 is
log 7). That KEY, A and B return a value before their first write is the model's choice (log 1). The premise that
STATUS is legal is the invariant of R22. -/
def Obligations.HostAccessWhileBusy : Prop :=
  ∀ (s : State) (rest : List Turn) (access : HostAccess), s.agenda = .host access :: rest → s.busy = true →
    s.legalStatus = true →
    (∀ i v, access = .writeReg i v → step s = .next { s with agenda := rest }) ∧
    (∀ i v, access = .writeText i v → step s = .next { s with agenda := rest }) ∧
    (∀ j v, access = .writeBlk j v → step s = .next { s with agenda := rest }) ∧
    (access = .readReg 0 → step s = .next { s with agenda := rest, replies := s.cmd :: s.replies }) ∧
    (access = .readReg 1 → step s = .next { s with agenda := rest, replies := 1 :: s.replies }) ∧
    (access = .readReg 2 → step s = .next { s with agenda := rest, replies := s.key.setWidth 64 :: s.replies }) ∧
    (access = .readReg 3 → step s = .next { s with agenda := rest, replies := s.a :: s.replies }) ∧
    (access = .readReg 4 → step s = .next { s with agenda := rest, replies := s.b :: s.replies }) ∧
    ((∃ i, access = .readReg i ∧ (5 ≤ i ∧ i ≤ 7 ∨ 16 ≤ i ∧ i ≤ 31)) ∨ (∃ i, access = .readText i ∧ i < s.textCap) ∨
      (∃ j, access = .readBlk j ∧ j < s.blkCap) →
      ∃ v n, step s = .next { s with agenda := rest, replies := v :: s.replies, draws := n }) ∧
    ((∃ i, access = .readReg i ∧ (8 ≤ i ∧ i ≤ 15 ∨ 32 ≤ i)) ∨ (∃ i, access = .readText i ∧ s.textCap ≤ i) ∨
      (∃ j, access = .readBlk j ∧ s.blkCap ≤ j) → step s = .next { s with agenda := rest, replies := 0 :: s.replies })

/-- R20 to R22, R24 to R30, R36, R37: with BUSY = 0, every index of the window reads its register, zero-extended, and the
read changes the reply alone; what a register reads after a host write to it, and that no other index or element then
reads differently: KEY keeps bits 55:0, A, B, TLEN and BLEN keep all 64 bits, a write to STATUS, Y, SK, a reserved
index or one of 32 or more changes nothing, and those last two read 0. That KEY, A, B, Y and SK read as a value before their first write is
the model's choice (log 1). -/
def Obligations.RegisterWindow : Prop :=
  ∀ (s : State) (v : Word), s.busy = false →
    (∀ i, i ∈ [3, 4, 6, 7] → ∃ t, s.access (.writeReg i v) = .next t ∧ t.readReg i = v ∧
      (∀ k, k ≠ i → t.readReg k = s.readReg k) ∧ SameText s t ∧ SameBlk s t ∧ SameOutside s t) ∧
    (∃ t, s.access (.writeReg 2 v) = .next t ∧ t.readReg 2 = v &&& 0x00FFFFFFFFFFFFFF ∧
      (∀ k, k ≠ 2 → t.readReg k = s.readReg k) ∧ SameText s t ∧ SameBlk s t ∧ SameOutside s t) ∧
    (∀ i, i = 1 ∨ i = 5 ∨ 8 ≤ i → s.access (.writeReg i v) = .next s) ∧
    (∀ i, (8 ≤ i ∧ i ≤ 15) ∨ 32 ≤ i → s.access (.readReg i) = .next { s with replies := 0 :: s.replies }) ∧
    (∀ i, s.access (.readReg i) = .next { s with replies := s.readReg i :: s.replies }) ∧
    (s.readReg 0 = s.cmd ∧ s.readReg 1 = s.status.setWidth 64 ∧ s.readReg 2 = s.key.setWidth 64 ∧ s.readReg 3 = s.a ∧
      s.readReg 4 = s.b ∧ s.readReg 5 = s.y ∧ s.readReg 6 = s.tlen ∧ s.readReg 7 = s.blen) ∧
    (∀ (r : Nat) (h : r < 16), s.readReg (16 + r) = s.sk[r].setWidth 64)

/-- R32, R35, R36, R56: with BUSY = 0, an element of TEXT or BLK reads what was last written to it, a write leaves the
other elements, every register and the configuration alone, an element nothing has written faults (log 2), and an index
beyond the buffer ignores writes and reads 0. -/
def Obligations.BufferAccess : Prop :=
  ∀ s : State, s.busy = false →
    (∀ i v, i < s.textCap → ∃ t, s.access (.writeText i v) = .next t ∧ t.readText i = some v ∧
      (∀ k, k ≠ i → t.readText k = s.readText k) ∧ SameBlk s t ∧ SameRegisters s t ∧ SameOutside s t) ∧
    (∀ j v, j < s.blkCap → ∃ t, s.access (.writeBlk j v) = .next t ∧ t.readBlk j = some v ∧
      (∀ k, k ≠ j → t.readBlk k = s.readBlk k) ∧ SameText s t ∧ SameRegisters s t ∧ SameOutside s t) ∧
    (∀ i b, s.readText i = some b → s.access (.readText i) = .next { s with replies := b.setWidth 64 :: s.replies }) ∧
    (∀ j w, s.readBlk j = some w → s.access (.readBlk j) = .next { s with replies := w :: s.replies }) ∧
    (∀ i, s.readText i = none → s.access (.readText i) = .fault .unwrittenRead) ∧
    (∀ j, s.readBlk j = none → s.access (.readBlk j) = .fault .unwrittenRead) ∧
    (∀ i v, s.textCap ≤ i → s.access (.writeText i v) = .next s ∧ s.readText i = some 0) ∧
    (∀ j v, s.blkCap ≤ j → s.access (.writeBlk j v) = .next s ∧ s.readBlk j = some 0)

/-- R81, R60, R247: from an idle state with `RUN i` on the agenda (log 4), the command runs and its `WAIT` ends, however
many polls come before the engine's step: each of those returns BUSY alone, the last read returns STATUS after the
command, with BUSY = 0, and the command's other effects stand. -/
def Obligations.RunCompletesWhateverTheLatency : Prop :=
  ∀ (s : State) (i : Instr) (polls : Nat) (rest : List Turn) (t : State),
    s.busy = false → s.agenda = runTurns i polls ++ rest →
    let polled := List.replicate polls 1 ++ s.replies
    let started := { s with cmd := encode i, status := 0x01, agenda := .host (.readReg 1) :: rest, replies := polled }
    let status := t.status &&& 0xFE
    exec i started = .next t →
    core.run (polls + 3) s =
      .next { t with status := status, agenda := rest, replies := status.setWidth 64 :: polled }

/-! ### The whole machine -/

/-- Every step keeps the invariant: STATUS as R22 allows it, both buffers canonical and inside their capacity. -/
def Obligations.StepKeepsTheInvariant : Prop :=
  ∀ s t : State, EngineInv s → step s = .next t → EngineInv t

/-- The state after reset meets the invariant. -/
def Obligations.ResetMeetsTheInvariant : Prop := EngineInv State.reset

/-- R40: no step, host access or command changes the configuration. -/
def Obligations.StepKeepsTheConfiguration : Prop :=
  ∀ s t : State, step s = .next t → t.cfg = s.cfg

/-- R57, the writes of every command, rejected or not: CMD, KEY, A and B never change; Y only by PERM.*, SBOX, ROUND and
CRYPT.*; SK only by KSCHED; BLEN only by ENCODE and TLEN only by DECODE.*; BLK only by PROC.* below BLEN and by ENCODE
below ceil(TLEN/8); TEXT only by DECODE.* below the new TLEN, and where TLEN could not hold 8 * BLEN (log 10) below that. -/
def Obligations.CommandsWriteOnlyTheirWriteSet : Prop :=
  ∀ (i : Instr) (s t : State), exec i s = .next t →
    SameHostRegisters s t ∧ SameOutside s t ∧
    (i ∉ [.permIp, .permFp, .permE, .permP, .permPc2, .sbox, .round, .cryptEnc, .cryptDec] → t.y = s.y) ∧
    (i ≠ .ksched → t.sk = s.sk) ∧
    (i ≠ .encode → t.blen = s.blen) ∧
    (i ∉ [.decodePt, .decodeCt] → t.tlen = s.tlen) ∧
    (i ∉ [.procEnc, .procDec, .encode] → SameBlk s t) ∧
    (i ∈ [.procEnc, .procDec] → ∀ j, s.blen.toNat ≤ j → t.readBlk j = s.readBlk j) ∧
    (i = .encode → ∀ j, (s.tlen.toNat + 7) / 8 ≤ j → t.readBlk j = s.readBlk j) ∧
    (i ∉ [.decodePt, .decodeCt] → SameText s t) ∧
    (i ∈ [.decodePt, .decodeCt] → ∀ k,
      (if 8 * s.blen.toNat < 2 ^ 64 then t.tlen.toNat else 8 * s.blen.toNat) ≤ k → t.readText k = s.readText k) ∧
    (t.status ≠ s.status → t = { s with status := 0x32 })

/-- R57, the reads: two states that agree on the configuration and on what the table lets a command read get the same
results from it, whatever their other registers and elements hold. SK is in no command's read set (R30). -/
def Obligations.CommandsReadOnlyTheirReadSet : Prop :=
  ∀ s s' : State, s.cfg = s'.cfg →
    (∀ i, i ∈ [Instr.permIp, .permFp, .permE, .permP, .permPc2] → s.a = s'.a →
      ∀ t t', exec i s = .next t → exec i s' = .next t' → t.y = t'.y) ∧
    (s.a.extractLsb' 0 48 = s'.a.extractLsb' 0 48 →
      ∀ t t', exec .sbox s = .next t → exec .sbox s' = .next t' → t.y = t'.y) ∧
    (s.a = s'.a → s.b.extractLsb' 0 48 = s'.b.extractLsb' 0 48 →
      ∀ t t', exec .round s = .next t → exec .round s' = .next t' → t.y = t'.y) ∧
    (∀ i, i ∈ [Instr.cryptEnc, .cryptDec] → s.a = s'.a → s.key = s'.key →
      ∀ t t', exec i s = .next t → exec i s' = .next t' → t.y = t'.y) ∧
    (s.key = s'.key → ∀ t t', exec .ksched s = .next t → exec .ksched s' = .next t' → t.sk = t'.sk) ∧
    (∀ i, i ∈ [Instr.procEnc, .procDec] → s.key = s'.key → s.blen = s'.blen →
      (∀ j, j < s.blen.toNat → s.readBlk j = s'.readBlk j) → ∀ t t', exec i s = .next t → exec i s' = .next t' →
      ∀ j, j < s.blen.toNat → t.readBlk j = t'.readBlk j) ∧
    (s.tlen = s'.tlen → (∀ k, k < s.tlen.toNat → s.readText k = s'.readText k) →
      ∀ t t', exec .encode s = .next t → exec .encode s' = .next t' → s.tlen.toNat ≤ s.textCap →
      t.blen = t'.blen ∧ ∀ j, j < t.blen.toNat → t.readBlk j = t'.readBlk j) ∧
    (∀ i, i ∈ [Instr.decodePt, .decodeCt] → s.blen = s'.blen →
      (∀ j, j < s.blen.toNat → s.readBlk j = s'.readBlk j) → ∀ t t', exec i s = .next t → exec i s' = .next t' →
      s.blen.toNat ≤ s.blkCap → t.tlen = t'.tlen ∧ ∀ k, k < t.tlen.toNat → t.readText k = t'.readText k)

/-- R220, R224: a turn that reads only written cells is never stopped by a fault or a refusal, whatever the data; so every
stop of a step is a read of an element that nothing has written, and no step refuses. -/
def Obligations.OnlyUnwrittenReadsStop : Prop :=
  (∀ (s : State) (turn : Turn), s.turnReadsWritten turn = true → ∃ t, s.takeTurn turn = .next t) ∧
  (∀ (s : State) (i : Instr), s.operandsWritten i = true → ∃ t, exec i s = .next t) ∧
  (∀ (s : State) (r : Refusal), step s ≠ .refused r)
end

