-- ==== Sys2Proof/Laws/State.lean ====
section
/-! SUPPORT. Every field after every update of State: one lemma per field and update, each true by definition. -/

namespace Sys2Proof.Machine

theorem skOfList_getElem (ks : List Subkey) (r : Nat) (h : r < 16) : (skOfList ks)[r] = ks.getD r 0 := by
  simp [skOfList]

variable (s : State)

/-! ### setStarted -/

@[simp] theorem State.setStarted_cfg : (s.setStarted).cfg = s.cfg := rfl
@[simp] theorem State.setStarted_cmd : (s.setStarted).cmd = s.cmd := rfl
@[simp] theorem State.setStarted_status : (s.setStarted).status = statusOf true false 0 := rfl
@[simp] theorem State.setStarted_key : (s.setStarted).key = s.key := rfl
@[simp] theorem State.setStarted_a : (s.setStarted).a = s.a := rfl
@[simp] theorem State.setStarted_b : (s.setStarted).b = s.b := rfl
@[simp] theorem State.setStarted_y : (s.setStarted).y = s.y := rfl
@[simp] theorem State.setStarted_tlen : (s.setStarted).tlen = s.tlen := rfl
@[simp] theorem State.setStarted_blen : (s.setStarted).blen = s.blen := rfl
@[simp] theorem State.setStarted_sk : (s.setStarted).sk = s.sk := rfl
@[simp] theorem State.setStarted_text : (s.setStarted).text = s.text := rfl
@[simp] theorem State.setStarted_blk : (s.setStarted).blk = s.blk := rfl
@[simp] theorem State.setStarted_written : (s.setStarted).written = s.written := rfl
@[simp] theorem State.setStarted_agenda : (s.setStarted).agenda = s.agenda := rfl
@[simp] theorem State.setStarted_replies : (s.setStarted).replies = s.replies := rfl
@[simp] theorem State.setStarted_draws : (s.setStarted).draws = s.draws := rfl

/-! ### setRejected -/

@[simp] theorem State.setRejected_cfg (c : Cause) : (s.setRejected c).cfg = s.cfg := rfl
@[simp] theorem State.setRejected_cmd (c : Cause) : (s.setRejected c).cmd = s.cmd := rfl
@[simp] theorem State.setRejected_status (c : Cause) : (s.setRejected c).status = statusOf false true (causeCode c) := rfl
@[simp] theorem State.setRejected_key (c : Cause) : (s.setRejected c).key = s.key := rfl
@[simp] theorem State.setRejected_a (c : Cause) : (s.setRejected c).a = s.a := rfl
@[simp] theorem State.setRejected_b (c : Cause) : (s.setRejected c).b = s.b := rfl
@[simp] theorem State.setRejected_y (c : Cause) : (s.setRejected c).y = s.y := rfl
@[simp] theorem State.setRejected_tlen (c : Cause) : (s.setRejected c).tlen = s.tlen := rfl
@[simp] theorem State.setRejected_blen (c : Cause) : (s.setRejected c).blen = s.blen := rfl
@[simp] theorem State.setRejected_sk (c : Cause) : (s.setRejected c).sk = s.sk := rfl
@[simp] theorem State.setRejected_text (c : Cause) : (s.setRejected c).text = s.text := rfl
@[simp] theorem State.setRejected_blk (c : Cause) : (s.setRejected c).blk = s.blk := rfl
@[simp] theorem State.setRejected_written (c : Cause) : (s.setRejected c).written = s.written := rfl
@[simp] theorem State.setRejected_agenda (c : Cause) : (s.setRejected c).agenda = s.agenda := rfl
@[simp] theorem State.setRejected_replies (c : Cause) : (s.setRejected c).replies = s.replies := rfl
@[simp] theorem State.setRejected_draws (c : Cause) : (s.setRejected c).draws = s.draws := rfl

/-! ### clearBusy -/

@[simp] theorem State.clearBusy_cfg : (s.clearBusy).cfg = s.cfg := rfl
@[simp] theorem State.clearBusy_cmd : (s.clearBusy).cmd = s.cmd := rfl
@[simp] theorem State.clearBusy_status : (s.clearBusy).status = s.status &&& 0xFE := rfl
@[simp] theorem State.clearBusy_key : (s.clearBusy).key = s.key := rfl
@[simp] theorem State.clearBusy_a : (s.clearBusy).a = s.a := rfl
@[simp] theorem State.clearBusy_b : (s.clearBusy).b = s.b := rfl
@[simp] theorem State.clearBusy_y : (s.clearBusy).y = s.y := rfl
@[simp] theorem State.clearBusy_tlen : (s.clearBusy).tlen = s.tlen := rfl
@[simp] theorem State.clearBusy_blen : (s.clearBusy).blen = s.blen := rfl
@[simp] theorem State.clearBusy_sk : (s.clearBusy).sk = s.sk := rfl
@[simp] theorem State.clearBusy_text : (s.clearBusy).text = s.text := rfl
@[simp] theorem State.clearBusy_blk : (s.clearBusy).blk = s.blk := rfl
@[simp] theorem State.clearBusy_written : (s.clearBusy).written = s.written := rfl
@[simp] theorem State.clearBusy_agenda : (s.clearBusy).agenda = s.agenda := rfl
@[simp] theorem State.clearBusy_replies : (s.clearBusy).replies = s.replies := rfl
@[simp] theorem State.clearBusy_draws : (s.clearBusy).draws = s.draws := rfl

/-! ### setY -/

@[simp] theorem State.setY_cfg (v : Word) : (s.setY v).cfg = s.cfg := rfl
@[simp] theorem State.setY_cmd (v : Word) : (s.setY v).cmd = s.cmd := rfl
@[simp] theorem State.setY_status (v : Word) : (s.setY v).status = s.status := rfl
@[simp] theorem State.setY_key (v : Word) : (s.setY v).key = s.key := rfl
@[simp] theorem State.setY_a (v : Word) : (s.setY v).a = s.a := rfl
@[simp] theorem State.setY_b (v : Word) : (s.setY v).b = s.b := rfl
@[simp] theorem State.setY_y (v : Word) : (s.setY v).y = v := rfl
@[simp] theorem State.setY_tlen (v : Word) : (s.setY v).tlen = s.tlen := rfl
@[simp] theorem State.setY_blen (v : Word) : (s.setY v).blen = s.blen := rfl
@[simp] theorem State.setY_sk (v : Word) : (s.setY v).sk = s.sk := rfl
@[simp] theorem State.setY_text (v : Word) : (s.setY v).text = s.text := rfl
@[simp] theorem State.setY_blk (v : Word) : (s.setY v).blk = s.blk := rfl
@[simp] theorem State.setY_written (v : Word) : (s.setY v).written = { s.written with y := true } := rfl
@[simp] theorem State.setY_agenda (v : Word) : (s.setY v).agenda = s.agenda := rfl
@[simp] theorem State.setY_replies (v : Word) : (s.setY v).replies = s.replies := rfl
@[simp] theorem State.setY_draws (v : Word) : (s.setY v).draws = s.draws := rfl

/-! ### setSk -/

@[simp] theorem State.setSk_cfg (ks : List Subkey) : (s.setSk ks).cfg = s.cfg := rfl
@[simp] theorem State.setSk_cmd (ks : List Subkey) : (s.setSk ks).cmd = s.cmd := rfl
@[simp] theorem State.setSk_status (ks : List Subkey) : (s.setSk ks).status = s.status := rfl
@[simp] theorem State.setSk_key (ks : List Subkey) : (s.setSk ks).key = s.key := rfl
@[simp] theorem State.setSk_a (ks : List Subkey) : (s.setSk ks).a = s.a := rfl
@[simp] theorem State.setSk_b (ks : List Subkey) : (s.setSk ks).b = s.b := rfl
@[simp] theorem State.setSk_y (ks : List Subkey) : (s.setSk ks).y = s.y := rfl
@[simp] theorem State.setSk_tlen (ks : List Subkey) : (s.setSk ks).tlen = s.tlen := rfl
@[simp] theorem State.setSk_blen (ks : List Subkey) : (s.setSk ks).blen = s.blen := rfl
@[simp] theorem State.setSk_sk (ks : List Subkey) : (s.setSk ks).sk = skOfList ks := rfl
@[simp] theorem State.setSk_text (ks : List Subkey) : (s.setSk ks).text = s.text := rfl
@[simp] theorem State.setSk_blk (ks : List Subkey) : (s.setSk ks).blk = s.blk := rfl
@[simp] theorem State.setSk_written (ks : List Subkey) : (s.setSk ks).written = { s.written with sk := true } := rfl
@[simp] theorem State.setSk_agenda (ks : List Subkey) : (s.setSk ks).agenda = s.agenda := rfl
@[simp] theorem State.setSk_replies (ks : List Subkey) : (s.setSk ks).replies = s.replies := rfl
@[simp] theorem State.setSk_draws (ks : List Subkey) : (s.setSk ks).draws = s.draws := rfl

/-! ### setKey -/

@[simp] theorem State.setKey_cfg (v : Word) : (s.setKey v).cfg = s.cfg := rfl
@[simp] theorem State.setKey_cmd (v : Word) : (s.setKey v).cmd = s.cmd := rfl
@[simp] theorem State.setKey_status (v : Word) : (s.setKey v).status = s.status := rfl
@[simp] theorem State.setKey_key (v : Word) : (s.setKey v).key = v.extractLsb' 0 56 := rfl
@[simp] theorem State.setKey_a (v : Word) : (s.setKey v).a = s.a := rfl
@[simp] theorem State.setKey_b (v : Word) : (s.setKey v).b = s.b := rfl
@[simp] theorem State.setKey_y (v : Word) : (s.setKey v).y = s.y := rfl
@[simp] theorem State.setKey_tlen (v : Word) : (s.setKey v).tlen = s.tlen := rfl
@[simp] theorem State.setKey_blen (v : Word) : (s.setKey v).blen = s.blen := rfl
@[simp] theorem State.setKey_sk (v : Word) : (s.setKey v).sk = s.sk := rfl
@[simp] theorem State.setKey_text (v : Word) : (s.setKey v).text = s.text := rfl
@[simp] theorem State.setKey_blk (v : Word) : (s.setKey v).blk = s.blk := rfl
@[simp] theorem State.setKey_written (v : Word) : (s.setKey v).written = { s.written with key := true } := rfl
@[simp] theorem State.setKey_agenda (v : Word) : (s.setKey v).agenda = s.agenda := rfl
@[simp] theorem State.setKey_replies (v : Word) : (s.setKey v).replies = s.replies := rfl
@[simp] theorem State.setKey_draws (v : Word) : (s.setKey v).draws = s.draws := rfl

/-! ### setA -/

@[simp] theorem State.setA_cfg (v : Word) : (s.setA v).cfg = s.cfg := rfl
@[simp] theorem State.setA_cmd (v : Word) : (s.setA v).cmd = s.cmd := rfl
@[simp] theorem State.setA_status (v : Word) : (s.setA v).status = s.status := rfl
@[simp] theorem State.setA_key (v : Word) : (s.setA v).key = s.key := rfl
@[simp] theorem State.setA_a (v : Word) : (s.setA v).a = v := rfl
@[simp] theorem State.setA_b (v : Word) : (s.setA v).b = s.b := rfl
@[simp] theorem State.setA_y (v : Word) : (s.setA v).y = s.y := rfl
@[simp] theorem State.setA_tlen (v : Word) : (s.setA v).tlen = s.tlen := rfl
@[simp] theorem State.setA_blen (v : Word) : (s.setA v).blen = s.blen := rfl
@[simp] theorem State.setA_sk (v : Word) : (s.setA v).sk = s.sk := rfl
@[simp] theorem State.setA_text (v : Word) : (s.setA v).text = s.text := rfl
@[simp] theorem State.setA_blk (v : Word) : (s.setA v).blk = s.blk := rfl
@[simp] theorem State.setA_written (v : Word) : (s.setA v).written = { s.written with a := true } := rfl
@[simp] theorem State.setA_agenda (v : Word) : (s.setA v).agenda = s.agenda := rfl
@[simp] theorem State.setA_replies (v : Word) : (s.setA v).replies = s.replies := rfl
@[simp] theorem State.setA_draws (v : Word) : (s.setA v).draws = s.draws := rfl

/-! ### setB -/

@[simp] theorem State.setB_cfg (v : Word) : (s.setB v).cfg = s.cfg := rfl
@[simp] theorem State.setB_cmd (v : Word) : (s.setB v).cmd = s.cmd := rfl
@[simp] theorem State.setB_status (v : Word) : (s.setB v).status = s.status := rfl
@[simp] theorem State.setB_key (v : Word) : (s.setB v).key = s.key := rfl
@[simp] theorem State.setB_a (v : Word) : (s.setB v).a = s.a := rfl
@[simp] theorem State.setB_b (v : Word) : (s.setB v).b = v := rfl
@[simp] theorem State.setB_y (v : Word) : (s.setB v).y = s.y := rfl
@[simp] theorem State.setB_tlen (v : Word) : (s.setB v).tlen = s.tlen := rfl
@[simp] theorem State.setB_blen (v : Word) : (s.setB v).blen = s.blen := rfl
@[simp] theorem State.setB_sk (v : Word) : (s.setB v).sk = s.sk := rfl
@[simp] theorem State.setB_text (v : Word) : (s.setB v).text = s.text := rfl
@[simp] theorem State.setB_blk (v : Word) : (s.setB v).blk = s.blk := rfl
@[simp] theorem State.setB_written (v : Word) : (s.setB v).written = { s.written with b := true } := rfl
@[simp] theorem State.setB_agenda (v : Word) : (s.setB v).agenda = s.agenda := rfl
@[simp] theorem State.setB_replies (v : Word) : (s.setB v).replies = s.replies := rfl
@[simp] theorem State.setB_draws (v : Word) : (s.setB v).draws = s.draws := rfl

/-! ### startCommand -/

@[simp] theorem State.startCommand_cfg (v : Word) : (s.startCommand v).cfg = s.cfg := rfl
@[simp] theorem State.startCommand_cmd (v : Word) : (s.startCommand v).cmd = v := rfl
@[simp] theorem State.startCommand_status (v : Word) : (s.startCommand v).status = statusOf true false 0 := rfl
@[simp] theorem State.startCommand_key (v : Word) : (s.startCommand v).key = s.key := rfl
@[simp] theorem State.startCommand_a (v : Word) : (s.startCommand v).a = s.a := rfl
@[simp] theorem State.startCommand_b (v : Word) : (s.startCommand v).b = s.b := rfl
@[simp] theorem State.startCommand_y (v : Word) : (s.startCommand v).y = s.y := rfl
@[simp] theorem State.startCommand_tlen (v : Word) : (s.startCommand v).tlen = s.tlen := rfl
@[simp] theorem State.startCommand_blen (v : Word) : (s.startCommand v).blen = s.blen := rfl
@[simp] theorem State.startCommand_sk (v : Word) : (s.startCommand v).sk = s.sk := rfl
@[simp] theorem State.startCommand_text (v : Word) : (s.startCommand v).text = s.text := rfl
@[simp] theorem State.startCommand_blk (v : Word) : (s.startCommand v).blk = s.blk := rfl
@[simp] theorem State.startCommand_written (v : Word) : (s.startCommand v).written = s.written := rfl
@[simp] theorem State.startCommand_agenda (v : Word) : (s.startCommand v).agenda = s.agenda := rfl
@[simp] theorem State.startCommand_replies (v : Word) : (s.startCommand v).replies = s.replies := rfl
@[simp] theorem State.startCommand_draws (v : Word) : (s.startCommand v).draws = s.draws := rfl

/-! ### raiseIllegal -/

@[simp] theorem State.raiseIllegal_cfg (c : Cause) : (s.raiseIllegal c).cfg = s.cfg := rfl
@[simp] theorem State.raiseIllegal_cmd (c : Cause) : (s.raiseIllegal c).cmd = s.cmd := rfl
@[simp] theorem State.raiseIllegal_status (c : Cause) : (s.raiseIllegal c).status = statusOf false true (causeCode c) := rfl
@[simp] theorem State.raiseIllegal_key (c : Cause) : (s.raiseIllegal c).key = s.key := rfl
@[simp] theorem State.raiseIllegal_a (c : Cause) : (s.raiseIllegal c).a = s.a := rfl
@[simp] theorem State.raiseIllegal_b (c : Cause) : (s.raiseIllegal c).b = s.b := rfl
@[simp] theorem State.raiseIllegal_y (c : Cause) : (s.raiseIllegal c).y = s.y := rfl
@[simp] theorem State.raiseIllegal_tlen (c : Cause) : (s.raiseIllegal c).tlen = s.tlen := rfl
@[simp] theorem State.raiseIllegal_blen (c : Cause) : (s.raiseIllegal c).blen = s.blen := rfl
@[simp] theorem State.raiseIllegal_sk (c : Cause) : (s.raiseIllegal c).sk = s.sk := rfl
@[simp] theorem State.raiseIllegal_text (c : Cause) : (s.raiseIllegal c).text = s.text := rfl
@[simp] theorem State.raiseIllegal_blk (c : Cause) : (s.raiseIllegal c).blk = s.blk := rfl
@[simp] theorem State.raiseIllegal_written (c : Cause) : (s.raiseIllegal c).written = s.written := rfl
@[simp] theorem State.raiseIllegal_agenda (c : Cause) : (s.raiseIllegal c).agenda = s.agenda := rfl
@[simp] theorem State.raiseIllegal_replies (c : Cause) : (s.raiseIllegal c).replies = s.replies := rfl
@[simp] theorem State.raiseIllegal_draws (c : Cause) : (s.raiseIllegal c).draws = s.draws := rfl

/-! ### complete -/

@[simp] theorem State.complete_cfg : (s.complete).cfg = s.cfg := rfl
@[simp] theorem State.complete_cmd : (s.complete).cmd = s.cmd := rfl
@[simp] theorem State.complete_status : (s.complete).status = s.status &&& 0xFE := rfl
@[simp] theorem State.complete_key : (s.complete).key = s.key := rfl
@[simp] theorem State.complete_a : (s.complete).a = s.a := rfl
@[simp] theorem State.complete_b : (s.complete).b = s.b := rfl
@[simp] theorem State.complete_y : (s.complete).y = s.y := rfl
@[simp] theorem State.complete_tlen : (s.complete).tlen = s.tlen := rfl
@[simp] theorem State.complete_blen : (s.complete).blen = s.blen := rfl
@[simp] theorem State.complete_sk : (s.complete).sk = s.sk := rfl
@[simp] theorem State.complete_text : (s.complete).text = s.text := rfl
@[simp] theorem State.complete_blk : (s.complete).blk = s.blk := rfl
@[simp] theorem State.complete_written : (s.complete).written = s.written := rfl
@[simp] theorem State.complete_agenda : (s.complete).agenda = s.agenda := rfl
@[simp] theorem State.complete_replies : (s.complete).replies = s.replies := rfl
@[simp] theorem State.complete_draws : (s.complete).draws = s.draws := rfl

/-! ### applyReset -/

@[simp] theorem State.applyReset_cfg : (s.applyReset).cfg = s.cfg := rfl
@[simp] theorem State.applyReset_cmd : (s.applyReset).cmd = 0 := rfl
@[simp] theorem State.applyReset_status : (s.applyReset).status = 0 := rfl
@[simp] theorem State.applyReset_key : (s.applyReset).key = 0 := rfl
@[simp] theorem State.applyReset_a : (s.applyReset).a = 0 := rfl
@[simp] theorem State.applyReset_b : (s.applyReset).b = 0 := rfl
@[simp] theorem State.applyReset_y : (s.applyReset).y = 0 := rfl
@[simp] theorem State.applyReset_tlen : (s.applyReset).tlen = 0 := rfl
@[simp] theorem State.applyReset_blen : (s.applyReset).blen = 0 := rfl
@[simp] theorem State.applyReset_sk : (s.applyReset).sk = Vector.replicate 16 0 := rfl
@[simp] theorem State.applyReset_text : (s.applyReset).text = [] := rfl
@[simp] theorem State.applyReset_blk : (s.applyReset).blk = [] := rfl
@[simp] theorem State.applyReset_written : (s.applyReset).written = ⟨false, false, false, false, false⟩ := rfl
@[simp] theorem State.applyReset_agenda : (s.applyReset).agenda = s.agenda := rfl
@[simp] theorem State.applyReset_replies : (s.applyReset).replies = s.replies := rfl
@[simp] theorem State.applyReset_draws : (s.applyReset).draws = s.draws := rfl

/-! ### reply -/

@[simp] theorem State.reply_cfg (v : Word) : (s.reply v).cfg = s.cfg := rfl
@[simp] theorem State.reply_cmd (v : Word) : (s.reply v).cmd = s.cmd := rfl
@[simp] theorem State.reply_status (v : Word) : (s.reply v).status = s.status := rfl
@[simp] theorem State.reply_key (v : Word) : (s.reply v).key = s.key := rfl
@[simp] theorem State.reply_a (v : Word) : (s.reply v).a = s.a := rfl
@[simp] theorem State.reply_b (v : Word) : (s.reply v).b = s.b := rfl
@[simp] theorem State.reply_y (v : Word) : (s.reply v).y = s.y := rfl
@[simp] theorem State.reply_tlen (v : Word) : (s.reply v).tlen = s.tlen := rfl
@[simp] theorem State.reply_blen (v : Word) : (s.reply v).blen = s.blen := rfl
@[simp] theorem State.reply_sk (v : Word) : (s.reply v).sk = s.sk := rfl
@[simp] theorem State.reply_text (v : Word) : (s.reply v).text = s.text := rfl
@[simp] theorem State.reply_blk (v : Word) : (s.reply v).blk = s.blk := rfl
@[simp] theorem State.reply_written (v : Word) : (s.reply v).written = s.written := rfl
@[simp] theorem State.reply_agenda (v : Word) : (s.reply v).agenda = s.agenda := rfl
@[simp] theorem State.reply_replies (v : Word) : (s.reply v).replies = v :: s.replies := rfl
@[simp] theorem State.reply_draws (v : Word) : (s.reply v).draws = s.draws := rfl

/-! ### replyFree -/

@[simp] theorem State.replyFree_cfg (m : Word) : (s.replyFree m).cfg = s.cfg := rfl
@[simp] theorem State.replyFree_cmd (m : Word) : (s.replyFree m).cmd = s.cmd := rfl
@[simp] theorem State.replyFree_status (m : Word) : (s.replyFree m).status = s.status := rfl
@[simp] theorem State.replyFree_key (m : Word) : (s.replyFree m).key = s.key := rfl
@[simp] theorem State.replyFree_a (m : Word) : (s.replyFree m).a = s.a := rfl
@[simp] theorem State.replyFree_b (m : Word) : (s.replyFree m).b = s.b := rfl
@[simp] theorem State.replyFree_y (m : Word) : (s.replyFree m).y = s.y := rfl
@[simp] theorem State.replyFree_tlen (m : Word) : (s.replyFree m).tlen = s.tlen := rfl
@[simp] theorem State.replyFree_blen (m : Word) : (s.replyFree m).blen = s.blen := rfl
@[simp] theorem State.replyFree_sk (m : Word) : (s.replyFree m).sk = s.sk := rfl
@[simp] theorem State.replyFree_text (m : Word) : (s.replyFree m).text = s.text := rfl
@[simp] theorem State.replyFree_blk (m : Word) : (s.replyFree m).blk = s.blk := rfl
@[simp] theorem State.replyFree_written (m : Word) : (s.replyFree m).written = s.written := rfl
@[simp] theorem State.replyFree_agenda (m : Word) : (s.replyFree m).agenda = s.agenda := rfl
@[simp] theorem State.replyFree_replies (m : Word) : (s.replyFree m).replies = (Config.busyRead s.draws &&& m) :: s.replies := rfl
@[simp] theorem State.replyFree_draws (m : Word) : (s.replyFree m).draws = s.draws + 1 := rfl

end Sys2Proof.Machine
end

