-- ==== Sys2Proof/Laws/Memory.lean ====
section
/-! SUPPORT. The laws of the buffers: a read after a write, the canonical form kept by every write, and the same for the
buffers of State, element by element and over ranges. -/

namespace Sys2Proof.Machine

section memory
variable {width : Nat}

theorem Memory.read_write_same (m : Memory width) (i : Nat) (v : BitVec width) :
    Memory.read (Memory.write m i v) i = some v := by
  induction m with
  | nil => simp [Memory.write, Memory.read]
  | cons e m ih =>
    obtain ⟨j, u⟩ := e
    unfold Memory.write
    split
    · simp [Memory.read]
    · split
      · simp [Memory.read]
      · rename_i h
        simpa [Memory.read, h] using ih

theorem Memory.read_write_other (m : Memory width) {i k : Nat} (v : BitVec width) (h : k ≠ i) :
    Memory.read (Memory.write m i v) k = Memory.read m k := by
  induction m with
  | nil => simp [Memory.write, Memory.read, h]
  | cons e m ih =>
    obtain ⟨j, u⟩ := e
    unfold Memory.write
    split
    · simp [Memory.read, h]
    · split
      · rename_i hij
        subst hij
        simp [Memory.read, h]
      · simp [Memory.read, ih]

/-- A write's indexes are the old ones and the one written. -/
theorem Memory.mem_write_index {m : Memory width} {i : Nat} {v : BitVec width} {e : Nat × BitVec width}
    (h : e ∈ Memory.write m i v) : e.1 = i ∨ e ∈ m := by
  induction m with
  | nil => simp [Memory.write] at h; simp [h]
  | cons d m ih =>
    obtain ⟨j, u⟩ := d
    unfold Memory.write at h
    split at h
    · rcases List.mem_cons.1 h with rfl | h
      · exact .inl rfl
      · exact .inr h
    · split at h
      · rcases List.mem_cons.1 h with rfl | h
        · exact .inl rfl
        · exact .inr (List.mem_cons_of_mem _ h)
      · rcases List.mem_cons.1 h with rfl | h
        · exact .inr List.mem_cons_self
        · exact (ih h).imp_right (List.mem_cons_of_mem _)

theorem Memory.wf_cons {j : Nat} {u : BitVec width} {m : Memory width} :
    Memory.wf ((j, u) :: m) = true ↔ (∀ e ∈ m, j < e.1) ∧ Memory.wf m = true := by
  simp [Memory.wf, List.pairwise_cons]

/-- Every write keeps the canonical form. -/
theorem Memory.wf_write {m : Memory width} (i : Nat) (v : BitVec width) (h : Memory.wf m = true) :
    Memory.wf (Memory.write m i v) = true := by
  induction m with
  | nil => simp [Memory.write, Memory.wf]
  | cons e m ih =>
    obtain ⟨j, u⟩ := e
    obtain ⟨hj, hm⟩ := Memory.wf_cons.1 h
    unfold Memory.write
    split
    · rename_i hij
      refine Memory.wf_cons.2 ⟨fun e he => ?_, h⟩
      rcases List.mem_cons.1 he with rfl | he
      · exact hij
      · exact hij.trans (hj e he)
    · split
      · rename_i _ hij
        subst hij
        exact Memory.wf_cons.2 ⟨hj, hm⟩
      · refine Memory.wf_cons.2 ⟨fun e he => ?_, ih hm⟩
        rcases Memory.mem_write_index he with hi | he
        · omega
        · exact hj e he

/-- A write below the capacity stays inside it. -/
theorem Memory.within_write {m : Memory width} {i cap : Nat} (v : BitVec width)
    (h : Memory.within m cap = true) (hi : i < cap) : Memory.within (Memory.write m i v) cap = true := by
  simp only [Memory.within, List.all_eq_true, decide_eq_true_eq] at h ⊢
  intro e he
  rcases Memory.mem_write_index he with rfl | he
  · exact hi
  · exact h e he

/-- A canonical buffer is determined by what its elements read as. -/
theorem Memory.ext_of_read {m n : Memory width} (hm : Memory.wf m = true) (hn : Memory.wf n = true)
    (h : ∀ i, Memory.read m i = Memory.read n i) : m = n := by
  have absent : ∀ (l : Memory width) (k : Nat), (∀ e ∈ l, k < e.1) → Memory.read l k = none := by
    intro l k hl
    induction l with
    | nil => rfl
    | cons e l ih =>
      obtain ⟨j, u⟩ := e
      have : k ≠ j := (hl (j, u) List.mem_cons_self).ne
      simp [Memory.read, this, ih fun e he => hl e (List.mem_cons_of_mem _ he)]
  induction m generalizing n with
  | nil =>
    cases n with
    | nil => rfl
    | cons e n => obtain ⟨j, u⟩ := e; simpa [Memory.read] using h j
  | cons e m ih =>
    obtain ⟨j, u⟩ := e
    obtain ⟨hj, hm'⟩ := Memory.wf_cons.1 hm
    cases n with
    | nil => simpa [Memory.read] using h j
    | cons d n =>
      obtain ⟨k, w⟩ := d
      obtain ⟨hk, hn'⟩ := Memory.wf_cons.1 hn
      have hjk : j = k := by
        by_contra hne
        rcases Nat.lt_or_gt_of_ne hne with hlt | hgt
        · have := h j
          rw [absent ((k, w) :: n) j (fun e he => by
            rcases List.mem_cons.1 he with rfl | he
            · exact hlt
            · exact hlt.trans (hk e he))] at this
          simp [Memory.read] at this
        · have := h k
          rw [absent ((j, u) :: m) k (fun e he => by
            rcases List.mem_cons.1 he with rfl | he
            · exact hgt
            · exact hgt.trans (hj e he))] at this
          simp [Memory.read] at this
      subst hjk
      have huw : u = w := by simpa [Memory.read] using h j
      subst huw
      rw [ih hm' hn' fun i => ?_]
      by_cases hi : i = j
      · subst hi; rw [absent m i hj, absent n i hk]
      · simpa [Memory.read, hi] using h i

end memory

/-! ### Single elements of State's buffers -/

section element
variable (s : State)

theorem State.textCap_eq : s.textCap = 8 * s.blkCap := rfl

theorem State.blkCap_pos : 1 ≤ s.blkCap := by
  have h := s.cfg.ok
  simp only [Tables.ok, Tables.capOk, Bool.and_eq_true, decide_eq_true_eq] at h
  exact h.2

/-- What a write to TEXT leaves: only the buffer can change. -/
theorem State.writeText_eq (i : Nat) (v : Byte) : s.writeText i v = { s with text := (s.writeText i v).text } := by
  unfold State.writeText; split <;> rfl

/-- What a write to BLK leaves: only the buffer can change. -/
theorem State.writeBlk_eq (j : Nat) (v : Word) : s.writeBlk j v = { s with blk := (s.writeBlk j v).blk } := by
  unfold State.writeBlk; split <;> rfl

@[simp] theorem State.writeText_cfg (i : Nat) (v : Byte) : (s.writeText i v).cfg = s.cfg := by rw [s.writeText_eq]
@[simp] theorem State.writeBlk_cfg (j : Nat) (v : Word) : (s.writeBlk j v).cfg = s.cfg := by rw [s.writeBlk_eq]
@[simp] theorem State.writeText_blk (i : Nat) (v : Byte) : (s.writeText i v).blk = s.blk := by rw [s.writeText_eq]
@[simp] theorem State.writeBlk_text (j : Nat) (v : Word) : (s.writeBlk j v).text = s.text := by rw [s.writeBlk_eq]

/-- TEXT after a write: an index of TEXT_CAP or more reads 0 whatever is written (R36). -/
theorem State.readText_writeText (i k : Nat) (v : Byte) :
    (s.writeText i v).readText k = if k = i ∧ i < s.textCap then some v else s.readText k := by
  by_cases hi : i < s.textCap
  · rw [show s.writeText i v = { s with text := Memory.write s.text i v } from if_pos hi]
    show (if k < s.textCap then Memory.read (Memory.write s.text i v) k else some 0) = _
    by_cases hk : k = i
    · subst hk
      rw [if_pos hi, if_pos ⟨rfl, hi⟩, Memory.read_write_same]
    · rw [Memory.read_write_other _ v hk, if_neg (c := k = i ∧ _) fun h => hk h.1]
      rfl
  · rw [show s.writeText i v = s from if_neg hi, if_neg fun h => hi h.2]

/-- BLK after a write: an index of BLK_CAP or more reads 0 whatever is written (R36). -/
theorem State.readBlk_writeBlk (j k : Nat) (v : Word) :
    (s.writeBlk j v).readBlk k = if k = j ∧ j < s.blkCap then some v else s.readBlk k := by
  by_cases hj : j < s.blkCap
  · rw [show s.writeBlk j v = { s with blk := Memory.write s.blk j v } from if_pos hj]
    show (if k < s.blkCap then Memory.read (Memory.write s.blk j v) k else some 0) = _
    by_cases hk : k = j
    · subst hk
      rw [if_pos hj, if_pos ⟨rfl, hj⟩, Memory.read_write_same]
    · rw [Memory.read_write_other _ v hk, if_neg (c := k = j ∧ _) fun h => hk h.1]
      rfl
  · rw [show s.writeBlk j v = s from if_neg hj, if_neg fun h => hj h.2]

end element

/-! ### Ranges -/

section range
variable (s : State)

/-- What a run of writes to TEXT leaves: only the buffer can change. -/
theorem State.writeTextFrom_eq (start : Nat) (vs : List Byte) :
    s.writeTextFrom start vs = { s with text := (s.writeTextFrom start vs).text } := by
  induction vs generalizing s start with
  | nil => rfl
  | cons v vs ih =>
    rw [State.writeTextFrom, ih]
    rw [s.writeText_eq]

/-- What a run of writes to BLK leaves: only the buffer can change. -/
theorem State.writeBlkFrom_eq (start : Nat) (vs : List Word) :
    s.writeBlkFrom start vs = { s with blk := (s.writeBlkFrom start vs).blk } := by
  induction vs generalizing s start with
  | nil => rfl
  | cons v vs ih =>
    rw [State.writeBlkFrom, ih]
    rw [s.writeBlk_eq]

/-- TEXT after a run of writes below TEXT_CAP. -/
theorem State.readText_writeTextFrom (start : Nat) (vs : List Byte) (h : start + vs.length ≤ s.textCap) (k : Nat) :
    (s.writeTextFrom start vs).readText k =
      if start ≤ k ∧ k < start + vs.length then vs[k - start]? else s.readText k := by
  induction vs generalizing s start with
  | nil =>
    simp [State.writeTextFrom]
  | cons v vs ih =>
    have hcap : (s.writeText start v).textCap = s.textCap := by simp [State.textCap]
    simp only [List.length_cons] at h ⊢
    rw [State.writeTextFrom, ih _ _ (by rw [hcap]; omega), s.readText_writeText]
    by_cases hk : k = start
    · subst hk
      rw [if_neg (by omega), if_pos ⟨rfl, by omega⟩, if_pos (by omega)]
      simp
    · by_cases hin : start + 1 ≤ k ∧ k < start + 1 + vs.length
      · rw [if_pos hin, if_pos (by omega), show k - start = (k - (start + 1)) + 1 by omega, List.getElem?_cons_succ]
      · rw [if_neg hin, if_neg (by simp [hk]), if_neg (by omega)]

/-- BLK after a run of writes below BLK_CAP. -/
theorem State.readBlk_writeBlkFrom (start : Nat) (vs : List Word) (h : start + vs.length ≤ s.blkCap) (k : Nat) :
    (s.writeBlkFrom start vs).readBlk k =
      if start ≤ k ∧ k < start + vs.length then vs[k - start]? else s.readBlk k := by
  induction vs generalizing s start with
  | nil =>
    simp [State.writeBlkFrom]
  | cons v vs ih =>
    have hcap : (s.writeBlk start v).blkCap = s.blkCap := by simp [State.blkCap]
    simp only [List.length_cons] at h ⊢
    rw [State.writeBlkFrom, ih _ _ (by rw [hcap]; omega), s.readBlk_writeBlk]
    by_cases hk : k = start
    · subst hk
      rw [if_neg (by omega), if_pos ⟨rfl, by omega⟩, if_pos (by omega)]
      simp
    · by_cases hin : start + 1 ≤ k ∧ k < start + 1 + vs.length
      · rw [if_pos hin, if_pos (by omega), show k - start = (k - (start + 1)) + 1 by omega, List.getElem?_cons_succ]
      · rw [if_neg hin, if_neg (by simp [hk]), if_neg (by omega)]

/-- A range of TEXT reads as a list exactly when each element of it reads as the list's. -/
theorem State.readTextFrom_eq_some {start n : Nat} {vs : List Byte} :
    s.readTextFrom start n = some vs ↔ vs.length = n ∧ ∀ i, i < n → s.readText (start + i) = vs[i]? := by
  induction n generalizing start vs with
  | zero => simp [State.readTextFrom, @eq_comm _ []]
  | succ n ih =>
    unfold State.readTextFrom
    constructor
    · intro h
      split at h
      · rename_i v ws hv hws
        obtain ⟨hlen, hel⟩ := ih.1 hws
        cases h
        refine ⟨by simp [hlen], fun i hi => ?_⟩
        cases i with
        | zero => simpa using hv
        | succ i => simpa [Nat.add_assoc, Nat.add_comm 1 i] using hel i (by omega)
      · cases h
    · rintro ⟨hlen, hel⟩
      cases vs with
      | nil => simp at hlen
      | cons v ws =>
        have hv : s.readText start = some v := by simpa using hel 0 (by omega)
        have hws : s.readTextFrom (start + 1) n = some ws := ih.2 ⟨by simpa using hlen, fun i hi => by
          simpa [Nat.add_assoc, Nat.add_comm 1 i] using hel (i + 1) (by omega)⟩
        simp [hv, hws]

/-- A range of BLK reads as a list exactly when each element of it reads as the list's. -/
theorem State.readBlkFrom_eq_some {start n : Nat} {vs : List Word} :
    s.readBlkFrom start n = some vs ↔ vs.length = n ∧ ∀ i, i < n → s.readBlk (start + i) = vs[i]? := by
  induction n generalizing start vs with
  | zero => simp [State.readBlkFrom, @eq_comm _ []]
  | succ n ih =>
    unfold State.readBlkFrom
    constructor
    · intro h
      split at h
      · rename_i v ws hv hws
        obtain ⟨hlen, hel⟩ := ih.1 hws
        cases h
        refine ⟨by simp [hlen], fun i hi => ?_⟩
        cases i with
        | zero => simpa using hv
        | succ i => simpa [Nat.add_assoc, Nat.add_comm 1 i] using hel i (by omega)
      · cases h
    · rintro ⟨hlen, hel⟩
      cases vs with
      | nil => simp at hlen
      | cons v ws =>
        have hv : s.readBlk start = some v := by simpa using hel 0 (by omega)
        have hws : s.readBlkFrom (start + 1) n = some ws := ih.2 ⟨by simpa using hlen, fun i hi => by
          simpa [Nat.add_assoc, Nat.add_comm 1 i] using hel (i + 1) (by omega)⟩
        simp [hv, hws]

/-- A range of TEXT can be read exactly when each element of it has been written. -/
theorem State.readTextFrom_isSome {start n : Nat} :
    (s.readTextFrom start n).isSome ↔ ∀ i, i < n → (s.readText (start + i)).isSome := by
  induction n generalizing start with
  | zero => simp [State.readTextFrom]
  | succ n ih =>
    have split0 : (∀ i, i < n + 1 → (s.readText (start + i)).isSome) ↔
        (s.readText start).isSome ∧ ∀ i, i < n → (s.readText (start + 1 + i)).isSome := by
      refine ⟨fun h => ⟨h 0 (by omega), fun i hi => ?_⟩, fun h i hi => ?_⟩
      · simpa [Nat.add_assoc, Nat.add_comm 1 i] using h (i + 1) (by omega)
      · cases i with
        | zero => exact h.1
        | succ i => simpa [Nat.add_assoc, Nat.add_comm 1 i] using h.2 i (by omega)
    rw [split0, ← ih, State.readTextFrom]
    cases s.readText start <;> cases s.readTextFrom (start + 1) n <;> simp

/-- A range of BLK can be read exactly when each element of it has been written. -/
theorem State.readBlkFrom_isSome {start n : Nat} :
    (s.readBlkFrom start n).isSome ↔ ∀ i, i < n → (s.readBlk (start + i)).isSome := by
  induction n generalizing start with
  | zero => simp [State.readBlkFrom]
  | succ n ih =>
    have split0 : (∀ i, i < n + 1 → (s.readBlk (start + i)).isSome) ↔
        (s.readBlk start).isSome ∧ ∀ i, i < n → (s.readBlk (start + 1 + i)).isSome := by
      refine ⟨fun h => ⟨h 0 (by omega), fun i hi => ?_⟩, fun h i hi => ?_⟩
      · simpa [Nat.add_assoc, Nat.add_comm 1 i] using h (i + 1) (by omega)
      · cases i with
        | zero => exact h.1
        | succ i => simpa [Nat.add_assoc, Nat.add_comm 1 i] using h.2 i (by omega)
    rw [split0, ← ih, State.readBlkFrom]
    cases s.readBlk start <;> cases s.readBlkFrom (start + 1) n <;> simp

end range

/-! ### The canonical form of State's buffers -/

/-- The part of the invariant that speaks of the buffers. -/
def BuffersOk (s : State) : Prop :=
  Memory.wf s.text = true ∧ Memory.within s.text s.textCap = true ∧
  Memory.wf s.blk = true ∧ Memory.within s.blk s.blkCap = true

theorem State.writeText_buffersOk {s : State} (i : Nat) (v : Byte) (h : BuffersOk s) : BuffersOk (s.writeText i v) := by
  obtain ⟨h1, h2, h3, h4⟩ := h
  by_cases hi : i < s.textCap
  · simp only [State.writeText, if_pos hi]
    exact ⟨Memory.wf_write i v h1, Memory.within_write v h2 hi, h3, h4⟩
  · simp only [State.writeText, if_neg hi]
    exact ⟨h1, h2, h3, h4⟩

theorem State.writeBlk_buffersOk {s : State} (j : Nat) (v : Word) (h : BuffersOk s) : BuffersOk (s.writeBlk j v) := by
  obtain ⟨h1, h2, h3, h4⟩ := h
  by_cases hj : j < s.blkCap
  · simp only [State.writeBlk, if_pos hj]
    exact ⟨h1, h2, Memory.wf_write j v h3, Memory.within_write v h4 hj⟩
  · simp only [State.writeBlk, if_neg hj]
    exact ⟨h1, h2, h3, h4⟩

/-- Every run of writes to TEXT keeps the canonical form. -/
theorem State.writeTextFrom_buffersOk {s : State} (start : Nat) (vs : List Byte) (h : BuffersOk s) :
    BuffersOk (s.writeTextFrom start vs) := by
  induction vs generalizing s start with
  | nil => exact h
  | cons v vs ih => exact ih _ (State.writeText_buffersOk start v h)

/-- Every run of writes to BLK keeps the canonical form. -/
theorem State.writeBlkFrom_buffersOk {s : State} (start : Nat) (vs : List Word) (h : BuffersOk s) :
    BuffersOk (s.writeBlkFrom start vs) := by
  induction vs generalizing s start with
  | nil => exact h
  | cons v vs ih => exact ih _ (State.writeBlk_buffersOk start v h)

theorem State.reset_buffersOk : BuffersOk State.reset := by
  refine ⟨?_, ?_, ?_, ?_⟩ <;> rfl

end Sys2Proof.Machine
end

