-- ==== Sys2Proof/Laws/Commands.lean ====
section
/-! SUPPORT. What the shared operations of the commands can do, said once: STATUS after each of its changes, and the
commands with a length (PROC.*, ENCODE, DECODE.*) case by case. -/

namespace Sys2Proof.Machine

/-! ### STATUS -/

section status
variable (s : State)

@[simp] theorem State.busy_setStarted : s.setStarted.busy = true := by
  show (statusOf true false 0).getLsbD 0 = _
  decide
@[simp] theorem State.ill_setStarted : s.setStarted.ill = false := by
  show (statusOf true false 0).getLsbD 1 = _
  decide
@[simp] theorem State.cause_setStarted : s.setStarted.cause = 0 := by
  show (statusOf true false 0).extractLsb' 4 4 = _
  decide
@[simp] theorem State.busy_setRejected (c : Cause) : (s.setRejected c).busy = false := by
  show (statusOf false true (causeCode c)).getLsbD 0 = _
  cases c <;> decide
@[simp] theorem State.ill_setRejected (c : Cause) : (s.setRejected c).ill = true := by
  show (statusOf false true (causeCode c)).getLsbD 1 = _
  cases c <;> decide
@[simp] theorem State.cause_setRejected (c : Cause) : (s.setRejected c).cause = causeCode c := by
  show (statusOf false true (causeCode c)).extractLsb' 4 4 = _
  cases c <;> decide

@[simp] theorem State.busy_clearBusy : s.clearBusy.busy = false := by
  simp [State.busy]

@[simp] theorem State.ill_clearBusy : s.clearBusy.ill = s.ill := by
  simp [State.ill]

theorem State.cause_clearBusy : s.clearBusy.cause = s.cause := by
  show (s.status &&& 0xFE).extractLsb' 4 4 = s.status.extractLsb' 4 4
  generalize s.status = v
  revert v
  decide

end status

/-! ### PROC.* -/

section proc
variable {s : State} {e : Bool}

theorem State.proc_of_length (h : s.blkCap < s.blen.toNat) :
    s.proc e = .next (s.raiseIllegal .lengthOutOfRange) := if_pos h

theorem State.proc_of_written {blocks : List Word} (h : s.blen.toNat ≤ s.blkCap) (hb : s.blkOperand = some blocks) :
    s.proc e = .next (s.writeBlkFrom 0 (process s.cfg.tables blocks s.keyOperand e)) := by
  unfold State.proc; rw [if_neg (by omega), hb]

theorem State.proc_of_unwritten (h : s.blen.toNat ≤ s.blkCap) (hb : s.blkOperand = none) :
    s.proc e = .fault .unwrittenOperand := by
  unfold State.proc; rw [if_neg (by omega), hb]

/-- Everything PROC.* can answer as a next state. -/
theorem State.proc_next {t : State} (h : s.proc e = .next t) :
    (s.blkCap < s.blen.toNat ∧ t = s.raiseIllegal .lengthOutOfRange) ∨
    (s.blen.toNat ≤ s.blkCap ∧ ∃ blocks, s.blkOperand = some blocks ∧
      t = s.writeBlkFrom 0 (process s.cfg.tables blocks s.keyOperand e)) := by
  rcases Nat.lt_or_ge s.blkCap s.blen.toNat with hl | hl
  · rw [State.proc_of_length hl] at h
    exact .inl ⟨hl, by cases h; rfl⟩
  · cases hb : s.blkOperand with
    | none => rw [State.proc_of_unwritten hl hb] at h; cases h
    | some blocks =>
      rw [State.proc_of_written hl hb] at h
      exact .inr ⟨hl, blocks, rfl, by cases h; rfl⟩

end proc

/-! ### DECODE.* -/

/-- A length that fits TLEN is what DECODE.* write. -/
theorem textLength_toNat {n : Nat} (h : n < 2 ^ 64) : (textLength n).toNat = n := by
  rw [textLength, if_pos h, BitVec.toNat_ofNat, Nat.mod_eq_of_lt h]

/-- Whatever DECODE.* write to TLEN, it is at most the length of the text. -/
theorem textLength_le (n : Nat) : (textLength n).toNat ≤ n := by
  rcases Nat.lt_or_ge n (2 ^ 64) with h | h
  · exact (textLength_toNat h).le
  · exact (textLength n).isLt.le.trans h

section decode
variable {s : State} {ct : Bool}

theorem State.decodeBlk_of_length (h : s.blkCap < s.blen.toNat) :
    s.decodeBlk ct = .next (s.raiseIllegal .lengthOutOfRange) := if_pos h

theorem State.decodeBlk_of_written {blocks : List Word} (h : s.blen.toNat ≤ s.blkCap)
    (hb : s.blkOperand = some blocks) :
    s.decodeBlk ct = .next { s.writeTextFrom 0 (decodeText blocks ct) with
      tlen := textLength (decodeText blocks ct).length } := by
  unfold State.decodeBlk; rw [if_neg (by omega), hb]

theorem State.decodeBlk_of_unwritten (h : s.blen.toNat ≤ s.blkCap) (hb : s.blkOperand = none) :
    s.decodeBlk ct = .fault .unwrittenOperand := by
  unfold State.decodeBlk; rw [if_neg (by omega), hb]

/-- Everything DECODE.* can answer as a next state. -/
theorem State.decodeBlk_next {t : State} (h : s.decodeBlk ct = .next t) :
    (s.blkCap < s.blen.toNat ∧ t = s.raiseIllegal .lengthOutOfRange) ∨
    (s.blen.toNat ≤ s.blkCap ∧ ∃ blocks, s.blkOperand = some blocks ∧
      t = { s.writeTextFrom 0 (decodeText blocks ct) with
        tlen := textLength (decodeText blocks ct).length }) := by
  rcases Nat.lt_or_ge s.blkCap s.blen.toNat with hl | hl
  · rw [State.decodeBlk_of_length hl] at h
    exact .inl ⟨hl, by cases h; rfl⟩
  · cases hb : s.blkOperand with
    | none => rw [State.decodeBlk_of_unwritten hl hb] at h; cases h
    | some blocks =>
      rw [State.decodeBlk_of_written hl hb] at h
      exact .inr ⟨hl, blocks, rfl, by cases h; rfl⟩

end decode

/-! ### ENCODE -/

section encode
variable {s : State}

theorem execEncode_of_length (h : s.textCap < s.tlen.toNat) :
    execEncode s = .next (s.raiseIllegal .lengthOutOfRange) := if_pos h

theorem execEncode_of_written {text : List Byte} (h : s.tlen.toNat ≤ s.textCap) (ht : s.textOperand = some text) :
    execEncode s = .next { s.writeBlkFrom 0 (encodeText text) with
      blen := BitVec.ofNat 64 (encodeText text).length } := by
  unfold execEncode; rw [if_neg (by omega), ht]

theorem execEncode_of_unwritten (h : s.tlen.toNat ≤ s.textCap) (ht : s.textOperand = none) :
    execEncode s = .fault .unwrittenOperand := by
  unfold execEncode; rw [if_neg (by omega), ht]

/-- Everything ENCODE can answer as a next state. -/
theorem execEncode_next {t : State} (h : execEncode s = .next t) :
    (s.textCap < s.tlen.toNat ∧ t = s.raiseIllegal .lengthOutOfRange) ∨
    (s.tlen.toNat ≤ s.textCap ∧ ∃ text, s.textOperand = some text ∧
      t = { s.writeBlkFrom 0 (encodeText text) with blen := BitVec.ofNat 64 (encodeText text).length }) := by
  rcases Nat.lt_or_ge s.textCap s.tlen.toNat with hl | hl
  · rw [execEncode_of_length hl] at h
    exact .inl ⟨hl, by cases h; rfl⟩
  · cases ht : s.textOperand with
    | none => rw [execEncode_of_unwritten hl ht] at h; cases h
    | some text =>
      rw [execEncode_of_written hl ht] at h
      exact .inr ⟨hl, text, rfl, by cases h; rfl⟩

end encode

end Sys2Proof.Machine
end

