-- ==== Sys2Proof/Laws/Config.lean ====
section
/-! SUPPORT. What an accepted configuration guarantees, one lemma per part of R40 and R41. -/

namespace Sys2Proof

/-- The check of R8, R40 and R41, part by part. -/
theorem Tables.ok_iff (c : Tables) :
    c.ok = true ↔ c.tablesOk = true ∧ c.sboxOk = true ∧ c.ipIsPermutation = true ∧ c.fpInvertsIp = true ∧ c.capOk = true := by
  simp only [Tables.ok, Bool.and_eq_true]
  tauto

theorem Tables.entriesInFrame_iff (t : List Nat) :
    Tables.entriesInFrame t = true ↔ ∀ e ∈ t, 1 ≤ e ∧ e ≤ 64 := by
  simp [Tables.entriesInFrame]

/-- R40: the lengths of the tables and the range of their entries. -/
theorem Tables.tablesOk_iff (c : Tables) : c.tablesOk = true ↔
    (c.ip.length = 64 ∧ ∀ e ∈ c.ip, 1 ≤ e ∧ e ≤ 64) ∧ (c.fp.length = 64 ∧ ∀ e ∈ c.fp, 1 ≤ e ∧ e ≤ 64) ∧
    (c.e.length = 48 ∧ ∀ e ∈ c.e, 1 ≤ e ∧ e ≤ 64) ∧ (c.p.length = 32 ∧ ∀ e ∈ c.p, 1 ≤ e ∧ e ≤ 64) ∧
    (c.pc2.length = 48 ∧ ∀ e ∈ c.pc2, 1 ≤ e ∧ e ≤ 64) := by
  simp only [Tables.tablesOk, Bool.and_eq_true, beq_iff_eq, Tables.entriesInFrame_iff]
  tauto

/-- R40: the shape of the S-boxes and the range of their values. -/
theorem Tables.sboxOk_iff (c : Tables) : c.sboxOk = true ↔
    c.sbox.length = 4 ∧ ∀ box ∈ c.sbox, box.length = 4 ∧ ∀ row ∈ box, row.length = 16 ∧ ∀ v ∈ row, v ≤ 15 := by
  simp [Tables.sboxOk]

/-- R41: IP_TABLE[FP_TABLE[j] - 1] = j, with j = k + 1. -/
theorem Tables.fpInvertsIp_iff (c : Tables) : c.fpInvertsIp = true ↔
    ∀ k, k < 64 → c.ip[c.fp.getD k 0 - 1]? = some (k + 1) := by
  simp [Tables.fpInvertsIp]

/-- R8: the capacity of BLK. -/
theorem Tables.capOk_iff (c : Tables) : c.capOk = true ↔ 1 ≤ c.blkCap := by
  simp [Tables.capOk]

namespace Configuration
variable (cfg : Configuration)

theorem tables_facts : cfg.tables.tablesOk = true ∧ cfg.tables.sboxOk = true ∧ cfg.tables.ipIsPermutation = true ∧
    cfg.tables.fpInvertsIp = true ∧ cfg.tables.capOk = true := (Tables.ok_iff _).1 cfg.ok

theorem ip_length : cfg.tables.ip.length = 64 := ((Tables.tablesOk_iff _).1 cfg.tables_facts.1).1.1
theorem fp_length : cfg.tables.fp.length = 64 := ((Tables.tablesOk_iff _).1 cfg.tables_facts.1).2.1.1
theorem e_length : cfg.tables.e.length = 48 := ((Tables.tablesOk_iff _).1 cfg.tables_facts.1).2.2.1.1
theorem p_length : cfg.tables.p.length = 32 := ((Tables.tablesOk_iff _).1 cfg.tables_facts.1).2.2.2.1.1
theorem pc2_length : cfg.tables.pc2.length = 48 := ((Tables.tablesOk_iff _).1 cfg.tables_facts.1).2.2.2.2.1
theorem ip_entries : ∀ e ∈ cfg.tables.ip, 1 ≤ e ∧ e ≤ 64 := ((Tables.tablesOk_iff _).1 cfg.tables_facts.1).1.2
theorem fp_entries : ∀ e ∈ cfg.tables.fp, 1 ≤ e ∧ e ≤ 64 := ((Tables.tablesOk_iff _).1 cfg.tables_facts.1).2.1.2
theorem e_entries : ∀ e ∈ cfg.tables.e, 1 ≤ e ∧ e ≤ 64 := ((Tables.tablesOk_iff _).1 cfg.tables_facts.1).2.2.1.2
theorem p_entries : ∀ e ∈ cfg.tables.p, 1 ≤ e ∧ e ≤ 64 := ((Tables.tablesOk_iff _).1 cfg.tables_facts.1).2.2.2.1.2
theorem pc2_entries : ∀ e ∈ cfg.tables.pc2, 1 ≤ e ∧ e ≤ 64 := ((Tables.tablesOk_iff _).1 cfg.tables_facts.1).2.2.2.2.2
theorem sbox_shape : cfg.tables.sbox.length = 4 ∧ ∀ box ∈ cfg.tables.sbox, box.length = 4 ∧
    ∀ row ∈ box, row.length = 16 ∧ ∀ v ∈ row, v ≤ 15 := (Tables.sboxOk_iff _).1 cfg.tables_facts.2.1
theorem fp_inverts_ip (k : Nat) (hk : k < 64) : cfg.tables.ip[cfg.tables.fp.getD k 0 - 1]? = some (k + 1) :=
  (Tables.fpInvertsIp_iff _).1 cfg.tables_facts.2.2.2.1 k hk

end Configuration

end Sys2Proof
end

