-- ==== Sys2Proof/Laws/Frames.lean ====
section
/-! SUPPORT. What each shared operation leaves alone, in the terms of Safety: one lemma per operation. -/

namespace Sys2Proof.Machine

variable (s : State)

theorem State.setY_onlyYChanges (v : Word) : OnlyYChanges s (s.setY v) :=
  ⟨⟨rfl, rfl, rfl, rfl⟩, rfl, rfl, rfl, rfl, fun _ => rfl, fun _ => rfl, ⟨rfl, rfl, rfl, rfl⟩, rfl⟩

theorem State.setSk_onlySkChanges (ks : List Subkey) : OnlySkChanges s (s.setSk ks) :=
  ⟨⟨rfl, rfl, rfl, rfl⟩, rfl, rfl, rfl, rfl, fun _ => rfl, fun _ => rfl, ⟨rfl, rfl, rfl, rfl⟩, rfl⟩

/-- The fields a run of writes to BLK leaves alone. -/
theorem State.writeBlkFrom_fields (start : Nat) (vs : List Word) :
    SameHostRegisters s (s.writeBlkFrom start vs) ∧ (s.writeBlkFrom start vs).status = s.status ∧
    (s.writeBlkFrom start vs).tlen = s.tlen ∧ (s.writeBlkFrom start vs).blen = s.blen ∧
    (s.writeBlkFrom start vs).y = s.y ∧ (s.writeBlkFrom start vs).sk = s.sk ∧
    SameText s (s.writeBlkFrom start vs) ∧ SameOutside s (s.writeBlkFrom start vs) ∧
    (s.writeBlkFrom start vs).written = s.written := by
  rw [s.writeBlkFrom_eq]
  exact ⟨⟨rfl, rfl, rfl, rfl⟩, rfl, rfl, rfl, rfl, rfl, fun _ => rfl, ⟨rfl, rfl, rfl, rfl⟩, rfl⟩

/-- The fields a run of writes to TEXT leaves alone. -/
theorem State.writeTextFrom_fields (start : Nat) (vs : List Byte) :
    SameHostRegisters s (s.writeTextFrom start vs) ∧ (s.writeTextFrom start vs).status = s.status ∧
    (s.writeTextFrom start vs).tlen = s.tlen ∧ (s.writeTextFrom start vs).blen = s.blen ∧
    (s.writeTextFrom start vs).y = s.y ∧ (s.writeTextFrom start vs).sk = s.sk ∧
    SameBlk s (s.writeTextFrom start vs) ∧ SameOutside s (s.writeTextFrom start vs) ∧
    (s.writeTextFrom start vs).written = s.written := by
  rw [s.writeTextFrom_eq]
  exact ⟨⟨rfl, rfl, rfl, rfl⟩, rfl, rfl, rfl, rfl, rfl, fun _ => rfl, ⟨rfl, rfl, rfl, rfl⟩, rfl⟩

/-- A run of writes to BLK from index 0, below BLK_CAP, changes only the elements written. -/
theorem State.writeBlkFrom_frame (vs : List Word) (h : vs.length ≤ s.blkCap) :
    OnlyBlkBelowChanges vs.length s (s.writeBlkFrom 0 vs) := by
  obtain ⟨h1, h2, h3, h4, h5, h6, h7, h8, h9⟩ := s.writeBlkFrom_fields 0 vs
  refine ⟨h1, h2, h3, h4, h5, h6, h7, fun j hj => ?_, h8, h9⟩
  rw [s.readBlk_writeBlkFrom 0 vs (by omega), if_neg (by omega)]

/-- The same with BLEN set: ENCODE. -/
theorem State.writeBlkFrom_setBlen_frame (vs : List Word) (v : Word) (h : vs.length ≤ s.blkCap) :
    OnlyBlkBelowAndBlenChange vs.length s { s.writeBlkFrom 0 vs with blen := v } := by
  obtain ⟨h1, h2, h3, -, h5, h6, h7, h8, h9⟩ := s.writeBlkFrom_fields 0 vs
  refine ⟨h1, h2, h3, h5, h6, h7, fun j hj => ?_, h8, h9⟩
  show (s.writeBlkFrom 0 vs).readBlk j = _
  rw [s.readBlk_writeBlkFrom 0 vs (by omega), if_neg (by omega)]

/-- A run of writes to TEXT from index 0, below TEXT_CAP, with TLEN set: DECODE.*. -/
theorem State.writeTextFrom_setTlen_frame (vs : List Byte) (v : Word) (h : vs.length ≤ s.textCap) :
    OnlyTextBelowAndTlenChange vs.length s { s.writeTextFrom 0 vs with tlen := v } := by
  obtain ⟨h1, h2, -, h4, h5, h6, h7, h8, h9⟩ := s.writeTextFrom_fields 0 vs
  refine ⟨h1, h2, h4, h5, h6, fun i hi => ?_, h7, h8, h9⟩
  show (s.writeTextFrom 0 vs).readText i = _
  rw [s.readText_writeTextFrom 0 vs (by omega), if_neg (by omega)]

/-- A rejection changes STATUS and nothing else (R222). -/
theorem State.raiseIllegal_eq (c : Cause) : s.raiseIllegal c = { s with status := (s.raiseIllegal c).status } := rfl

/-- The end of a command changes STATUS and nothing else (R244). -/
theorem State.complete_eq : s.complete = { s with status := s.status &&& 0xFE } := rfl

end Sys2Proof.Machine
end

