-- ==== Sys2Proof/Laws/PerInstr.lean ====
section
/-! SUPPORT. Statements about every command as syntax, one lemma per constructor. -/

namespace Sys2Proof.Laws.LegalWord

/-- The encoder's word passes every field check of spec/30_encoding.md R76. -/
def Statement (i : Instr) : Prop := CommandWord.wellFormed (encode i) = true

theorem permIp : Statement .permIp := by unfold Statement; decide
theorem permFp : Statement .permFp := by unfold Statement; decide
theorem permE : Statement .permE := by unfold Statement; decide
theorem permP : Statement .permP := by unfold Statement; decide
theorem permPc2 : Statement .permPc2 := by unfold Statement; decide
theorem ksched : Statement .ksched := by unfold Statement; decide
theorem sbox : Statement .sbox := by unfold Statement; decide
theorem round : Statement .round := by unfold Statement; decide
theorem cryptDec : Statement .cryptDec := by unfold Statement; decide
theorem cryptEnc : Statement .cryptEnc := by unfold Statement; decide
theorem procDec : Statement .procDec := by unfold Statement; decide
theorem procEnc : Statement .procEnc := by unfold Statement; decide
theorem encode : Statement .encode := by unfold Statement; decide
theorem decodePt : Statement .decodePt := by unfold Statement; decide
theorem decodeCt : Statement .decodeCt := by unfold Statement; decide

end Sys2Proof.Laws.LegalWord
end

