-- ==== Sys2Proof/Tests/Slice0.lean ====
section
/-! SUPPORT. Tests: words written out from spec/30_encoding.md, the refusals of WellFormed and of the configuration check,
one step per command against spec/95_test_vectors.md, and a witness for the hypotheses of every obligation. -/

namespace Sys2Proof.Tests

open Sys2Proof.Machine
-- one thread: each kernel evaluation below would take a thread with a stack of its own
set_option Elab.async false

/-! ### The configurations CAND and SYN (spec/93_implementation_defined.md I9, spec/95_test_vectors.md §0), BLK_CAP = 4 -/

def candTables : Tables where
  ip :=
    [58, 50, 42, 34, 26, 18, 10, 2] ++ [60, 52, 44, 36, 28, 20, 12, 4] ++ [62, 54, 46, 38, 30, 22, 14, 6] ++
    [64, 56, 48, 40, 32, 24, 16, 8] ++ [57, 49, 41, 33, 25, 17, 9, 1] ++ [59, 51, 43, 35, 27, 19, 11, 3] ++
    [61, 53, 45, 37, 29, 21, 13, 5] ++ [63, 55, 47, 39, 31, 23, 15, 7]
  fp :=
    [40, 8, 48, 16, 56, 24, 64, 32] ++ [39, 7, 47, 15, 55, 23, 63, 31] ++ [38, 6, 46, 14, 54, 22, 62, 30] ++
    [37, 5, 45, 13, 53, 21, 61, 29] ++ [36, 4, 44, 12, 52, 20, 60, 28] ++ [35, 3, 43, 11, 51, 19, 59, 27] ++
    [34, 2, 42, 10, 50, 18, 58, 26] ++ [33, 1, 41, 9, 49, 17, 57, 25]
  e :=
    [32, 1, 2, 3, 4, 5] ++ [4, 5, 6, 7, 8, 9] ++ [8, 9, 10, 11, 12, 13] ++ [12, 13, 14, 15, 16, 17] ++
    [16, 17, 18, 19, 20, 21] ++ [20, 21, 22, 23, 24, 25] ++ [24, 25, 26, 27, 28, 29] ++ [28, 29, 30, 31, 32, 1]
  p :=
    [16, 7, 20, 21, 29, 12, 28, 17] ++ [1, 15, 23, 26, 5, 18, 31, 10] ++
    [2, 8, 24, 14, 32, 27, 3, 9] ++ [19, 13, 30, 6, 22, 11, 4, 25]
  pc2 :=
    [14, 17, 11, 24, 1, 5, 3, 28] ++ [15, 6, 21, 10, 23, 19, 12, 4] ++ [26, 8, 16, 7, 27, 20, 13, 2] ++
    [41, 52, 31, 37, 47, 55, 30, 40] ++ [51, 45, 33, 48, 44, 49, 39, 56] ++ [34, 53, 46, 42, 50, 36, 29, 32]
  sbox :=
    [[[14, 4, 13, 1, 2, 15, 11, 8, 3, 10, 6, 12, 5, 9, 0, 7], [0, 15, 7, 4, 14, 2, 13, 1, 10, 6, 12, 11, 9, 5, 3, 8],
      [4, 1, 14, 8, 13, 6, 2, 11, 15, 12, 9, 7, 3, 10, 5, 0], [15, 12, 8, 2, 4, 9, 1, 7, 5, 11, 3, 14, 10, 0, 6, 13]],
     [[15, 1, 8, 14, 6, 11, 3, 4, 9, 7, 2, 13, 12, 0, 5, 10], [3, 13, 4, 7, 15, 2, 8, 14, 12, 0, 1, 10, 6, 9, 11, 5],
      [0, 14, 7, 11, 10, 4, 13, 1, 5, 8, 12, 6, 9, 3, 2, 15], [13, 8, 10, 1, 3, 15, 4, 2, 11, 6, 7, 12, 0, 5, 14, 9]],
     [[10, 0, 9, 14, 6, 3, 15, 5, 1, 13, 12, 7, 11, 4, 2, 8], [13, 7, 0, 9, 3, 4, 6, 10, 2, 8, 5, 14, 12, 11, 15, 1],
      [13, 6, 4, 9, 8, 15, 3, 0, 11, 1, 2, 12, 5, 10, 14, 7], [1, 10, 13, 0, 6, 9, 8, 7, 4, 15, 14, 3, 11, 5, 2, 12]],
     [[7, 13, 14, 3, 0, 6, 9, 10, 1, 2, 8, 5, 11, 12, 4, 15], [13, 8, 11, 5, 6, 15, 0, 3, 4, 7, 2, 12, 1, 10, 14, 9],
      [10, 6, 9, 0, 12, 11, 7, 13, 15, 1, 3, 14, 5, 2, 8, 4], [3, 15, 0, 6, 10, 1, 13, 8, 9, 4, 5, 11, 12, 7, 2, 14]]]
  blkCap := 4

def synTables : Tables :=
  { candTables with
    e := candTables.e.map (· + 32)
    p := candTables.p.map (· + 32)
    pc2 := candTables.pc2.map (· + 8) }

/-- CAND with an E table that mixes wide and narrow entries: it reads bit 31 of a half only. -/
def mixedTables : Tables := { candTables with e := List.replicate 24 33 ++ List.replicate 24 1 }

/-- CAND with a buffer whose bytes TLEN cannot count (R8 sets no upper bound). -/
def hugeTables : Tables := { candTables with blkCap := 2 ^ 61 }

def candConfig : Configuration := ⟨candTables, by decide +kernel⟩
def synConfig : Configuration := ⟨synTables, by decide +kernel⟩
def mixedConfig : Configuration := ⟨mixedTables, by decide +kernel⟩
def hugeConfig : Configuration := ⟨hugeTables, by decide +kernel⟩

/-! ### Helpers -/

/-- The state after reset of an engine with a given configuration. -/
def idle (c : Configuration) : State := { State.reset with cfg := c }

/-- A, B and KEY written. -/
def withOperands (c : Configuration) (a b : Word) (key : Word) : State := ((idle c).setA a).setB b |>.setKey key

/-- TEXT and TLEN written. -/
def withText (c : Configuration) (text : List Byte) : State :=
  { (idle c).writeTextFrom 0 text with tlen := BitVec.ofNat 64 text.length }

/-- KEY, BLK and BLEN written. -/
def withBlocks (c : Configuration) (key : Word) (blocks : List Word) : State :=
  { ((idle c).setKey key).writeBlkFrom 0 blocks with blen := BitVec.ofNat 64 blocks.length }

/-- A command's word stands in CMD, started, with the given turns to come. -/
def running (s : State) (w : Word) (turns : List Turn) : State := { s.startCommand w with agenda := turns }

/-- The bytes of an ASCII text. -/
def ascii (s : String) : List Byte := s.toList.map fun c => BitVec.ofNat 8 c.toNat

def nextIs (o : Host.Outcome State Fault Refusal) (p : State → Bool) : Bool :=
  match o with
  | .next t => p t
  | .fault _ => false
  | .refused _ => false

def faultIs (o : Host.Outcome State Fault Refusal) (f : Fault) : Bool :=
  match o with
  | .next _ => false
  | .fault g => decide (g = f)
  | .refused _ => false

def isRefused {α : Type} (o : Except Refusal α) : Bool :=
  match o with
  | .ok _ => false
  | .error r => decide (r = .configRefused)

/-! ### Decoding: the bit patterns of R75 (bits 15:0; bits 63:16 are 0), written out -/

theorem test_decode_perm :
    decodeTableWord 64 0b0000000000000001 = some .permIp ∧ decodeTableWord 64 0b0000000000010001 = some .permFp ∧
    decodeTableWord 64 0b0000000000100001 = some .permE ∧ decodeTableWord 64 0b0000000000110001 = some .permP ∧
    decodeTableWord 64 0b0000000001000001 = some .permPc2 := by decide
theorem test_decode_ksched : decodeTableWord 64 0b0000000000000010 = some .ksched := by decide
theorem test_decode_sbox : decodeTableWord 64 0b0000000000000011 = some .sbox := by decide
theorem test_decode_round : decodeTableWord 64 0b0000000000000100 = some .round := by decide
theorem test_decode_crypt :
    decodeTableWord 64 0b0000000000000101 = some .cryptDec ∧ decodeTableWord 64 0b0000000100000101 = some .cryptEnc := by
  decide
theorem test_decode_proc :
    decodeTableWord 64 0b0000000000000110 = some .procDec ∧ decodeTableWord 64 0b0000000100000110 = some .procEnc := by
  decide
theorem test_decode_codec :
    decodeTableWord 64 0b0000000000000111 = some .encode ∧ decodeTableWord 64 0b0000000000001000 = some .decodePt ∧
    decodeTableWord 64 0b0000000100001000 = some .decodeCt := by decide

/-- R70 to R73: the encoder's word is the word of R75. -/
theorem test_encode_words : (opcodeTable.all fun row => encode row.2 == row.1) = true := by decide

/-! ### WellFormed: one ill-formed word per check (V-X1 to V-X3f); only that check fails, and the decoder refuses -/

theorem test_illFormed_op :
    CommandWord.opOk 0x0 = false ∧ CommandWord.opOk 0x9 = false ∧ CommandWord.wellFormed 0x9 = false ∧
    decodeTableWord 64 0x0 = none ∧ decodeTableWord 64 0x9 = none ∧ decodeTableWord 64 0xF = none := by decide
theorem test_illFormed_sel :
    CommandWord.selOk 0x51 = false ∧ CommandWord.selOk 0x12 = false ∧ CommandWord.wellFormed 0x51 = false ∧
    decodeTableWord 64 0x51 = none ∧ decodeTableWord 64 0x12 = none := by decide
theorem test_illFormed_d :
    CommandWord.dOk 0x101 = false ∧ CommandWord.dOk 0x107 = false ∧ CommandWord.wellFormed 0x101 = false ∧
    decodeTableWord 64 0x101 = none ∧ decodeTableWord 64 0x107 = none := by decide
theorem test_illFormed_rsv :
    CommandWord.rsvOk 0x205 = false ∧ CommandWord.rsvOk 0x8000000000000004 = false ∧
    CommandWord.wellFormed 0x205 = false ∧ decodeTableWord 64 0x205 = none ∧
    decodeTableWord 64 0x8000000000000004 = none := by decide

/-! ### The configuration check (R40, R41, R8): one ill-formed configuration per check -/

theorem test_tables_accepted : isRefused (acceptTables candTables) = false ∧ isRefused (acceptTables synTables) = false := by
  decide +kernel
theorem test_tables_entryZero : isRefused (acceptTables { candTables with e := 0 :: candTables.e.tail }) = true := by
  decide +kernel
theorem test_tables_entry65 : isRefused (acceptTables { candTables with p := 65 :: candTables.p.tail }) = true := by
  decide +kernel
theorem test_tables_length : isRefused (acceptTables { candTables with pc2 := candTables.pc2.tail }) = true := by
  decide +kernel
theorem test_tables_sboxValue :
    isRefused (acceptTables { candTables with sbox := List.replicate 4 (List.replicate 4 (List.replicate 16 16)) }) = true := by
  decide +kernel
theorem test_tables_sboxShape : isRefused (acceptTables { candTables with sbox := candTables.sbox.tail }) = true := by
  decide +kernel
theorem test_tables_ipRepeats : isRefused (acceptTables { candTables with ip := 50 :: candTables.ip.tail }) = true := by
  decide +kernel
theorem test_tables_fpNotInverse : isRefused (acceptTables { candTables with fp := candTables.ip }) = true := by
  decide +kernel
theorem test_tables_blkCap :
    isRefused (acceptTables { candTables with blkCap := 0 }) = true ∧
    isRefused (acceptTables { candTables with blkCap := 1 }) = false ∧
    isRefused (acceptTables { candTables with blkCap := 2 ^ 64 }) = false := by decide +kernel

/-! ### One step per command (spec/95_test_vectors.md L2), each started by its word from R75 -/

/-- From reset, whatever the configuration, each of the 15 words runs and ends with STATUS = 0. -/
theorem test_every_word_runs_from_reset :
    (opcodeTable.all fun row => nextIs (step (State.reset.withFetchWord 64 row.1.toNat)) fun t => t.status == 0) = true := by
  decide

/-- V-P6. -/
theorem test_permIp :
    nextIs (step ((withOperands candConfig 0x0123456789ABCDEF 0 0).withFetchWord 64 0x01))
      (fun t => t.y == 0xCC00CCFFF0AAF0AA && t.status == 0 && t.a == 0x0123456789ABCDEF) = true := by decide +kernel
/-- V-P7a. -/
theorem test_permFp :
    nextIs (step ((withOperands candConfig 0x0123456789ABCDEF 0 0).withFetchWord 64 0x11))
      (fun t => t.y == 0xFF330FAA00330FAA) = true := by decide +kernel
/-- V-P9, V-P14. -/
theorem test_permE :
    nextIs (step ((withOperands candConfig 0x0123456789ABCDEF 0 0).withFetchWord 64 0x21))
      (fun t => t.y == 0x0000802906A0AB0E) = true ∧
    nextIs (step ((withOperands synConfig 0x89ABCDEF 0 0).withFetchWord 64 0x21))
      (fun t => t.y == 0x0000C53D57E5BF5F) = true := by decide +kernel
/-- V-P10, V-P17. -/
theorem test_permP :
    nextIs (step ((withOperands candConfig 0x0123456789ABCDEF 0 0).withFetchWord 64 0x31))
      (fun t => t.y == 0x0000000080566C2C) = true ∧
    nextIs (step ((withOperands synConfig 0x89ABCDEF 0 0).withFetchWord 64 0x31))
      (fun t => t.y == 0x0000000099DE6D6D) = true := by decide +kernel
/-- V-P12, V-P19. -/
theorem test_permPc2 :
    nextIs (step ((withOperands candConfig 0x0123456789ABCDEF 0 0).withFetchWord 64 0x41))
      (fun t => t.y == 0x00003080E8BB7549) = true ∧
    nextIs (step ((withOperands synConfig 0x0123456789ABCDEF 0 0).withFetchWord 64 0x41))
      (fun t => t.y == 0x0000921C7095F77B) = true := by decide +kernel
/-- V-K4, with KEY written as FF123456789ABCDE. -/
theorem test_ksched :
    nextIs (step ((withOperands candConfig 0 0 0xFF123456789ABCDE).withFetchWord 64 0x02))
      (fun t => t.sk.toList == [0xA0240843B9EA, 0x5110864CE79B, 0x410E28A4BC39, 0x3080A8BB554D, 0xC0B8806F1F72,
        0x910026CED3A2, 0x11AE0A1DE97E, 0xA10A8CD44E69] ++ [0x60348A61DDD0, 0x1032A4DEBA58, 0x708C04C9843F,
        0x911C20B1D67C, 0x40A80ACB5F88, 0xC022A41DBEA6, 0x21A426187239, 0x90960CB84DF1] && t.y == 0) = true := by
  decide +kernel
/-- V-S5, and A[63:48] plays no part (V-S7). -/
theorem test_sbox :
    nextIs (step ((withOperands candConfig 0xFFFF0123456789AB 0 0).withFetchWord 64 0x03))
      (fun t => t.y == 0x00000000E76B9991) = true := by decide +kernel
/-- V-S6: row 0, col 4 of group 0. -/
theorem test_sbox_row_and_column :
    nextIs (step ((withOperands candConfig 0x210000000000 0 0).withFetchWord 64 0x03))
      (fun t => t.y == 0x0000000029A7EFA7) = true := by decide +kernel
/-- V-R4, and B[63:48] plays no part. -/
theorem test_round :
    nextIs (step ((withOperands synConfig 0x0123456789ABCDEF 0xFFFFFFFFFFFFFFFF 0).withFetchWord 64 0x04))
      (fun t => t.y == 0x89ABCDEF2D89353B) = true := by decide +kernel
/-- V-R1a: CAND's round is a swap. -/
theorem test_round_cand :
    nextIs (step ((withOperands candConfig 0x0123456789ABCDEF 0 0).withFetchWord 64 0x04))
      (fun t => t.y == 0x89ABCDEF01234567) = true := by decide +kernel
/-- V-C9, the DEC column. -/
theorem test_cryptDec :
    nextIs (step ((withOperands synConfig 0x5445535444415441 0 0x123456789ABCDE).withFetchWord 64 0x05))
      (fun t => t.y == 0xB0A09EA678FBACBC) = true := by decide +kernel
/-- V-C9, the ENC column. -/
theorem test_cryptEnc :
    nextIs (step ((withOperands synConfig 0x5445535444415441 0 0x123456789ABCDE).withFetchWord 64 0x105))
      (fun t => t.y == 0xA0C0EDA83712E515 && t.status == 0) = true := by decide +kernel
/-- V-PR3. -/
theorem test_procDec :
    nextIs (step ((withBlocks synConfig 0x0F1E2D3C4B5A69 [0xB78AB2F16C2DE93C]).withFetchWord 64 0x06))
      (fun t => t.blk == [(0, 0x48454C4C4F030303)] && t.blen == 1) = true := by decide +kernel
/-- V-PR10. -/
theorem test_procEnc :
    nextIs (step ((withBlocks synConfig 0x123456789ABCDE [0, 0x5445535444415441, 0]).withFetchWord 64 0x106))
      (fun t => t.blk == [(0, 0x345EBB9883E184DB), (1, 0xA0C0EDA83712E515), (2, 0x345EBB9883E184DB)]) = true := by
  decide +kernel
/-- V-X5: BLEN = BLK_CAP + 1. -/
theorem test_procEnc_length :
    nextIs (step ({ withBlocks synConfig 0 [7] with blen := 5 }.withFetchWord 64 0x106))
      (fun t => t.status == 0x32 && t.blk == [(0, 7)] && t.cmd == 0x106) = true := by decide +kernel
/-- V-EN6. -/
theorem test_encode :
    nextIs (step ((withText synConfig (ascii "TESTDATAX")).withFetchWord 64 0x07))
      (fun t => t.blk == [(0, 0x5445535444415441), (1, 0x5807070707070707)] && t.blen == 2 && t.tlen == 9) = true := by
  decide +kernel
/-- V-X4: TLEN = TEXT_CAP + 1. -/
theorem test_encode_length :
    nextIs (step ({ idle synConfig with tlen := 33 }.withFetchWord 64 0x07))
      (fun t => t.status == 0x32 && t.blk == [] && t.blen == 0) = true := by decide +kernel
/-- V-DE17: three bytes are stripped. -/
theorem test_decodePt :
    nextIs (step ((withBlocks synConfig 0 [0x4142434445464703]).withFetchWord 64 0x08))
      (fun t => t.text == [(0, 0x41), (1, 0x42), (2, 0x43), (3, 0x44), (4, 0x45)] && t.tlen == 5) = true := by
  decide +kernel
/-- V-DE19: the last remaining byte lies in the first block. -/
theorem test_decodePt_strips_across_blocks :
    nextIs (step ((withBlocks synConfig 0 [0x4142434445464708, 0]).withFetchWord 64 0x08))
      (fun t => t.text == [] && t.tlen == 0) = true := by decide +kernel
/-- V-DE15, the CT column. -/
theorem test_decodeCt :
    nextIs (step ((withBlocks synConfig 0 [0x4142434400000000]).withFetchWord 64 0x108))
      (fun t => t.text == [(0, 0x41), (1, 0x42), (2, 0x43), (3, 0x44), (4, 0), (5, 0), (6, 0), (7, 0)] &&
        t.tlen == 8) = true := by decide +kernel

/-! ### Rejection and the host side (V-X, V-H) -/

/-- V-X3a: cause 1 wins over cause 2; V-X3b: cause 2. CMD keeps the word. -/
theorem test_rejection :
    nextIs (step ((idle synConfig).withFetchWord 64 0x209)) (fun t => t.status == 0x12 && t.cmd == 0x209) = true ∧
    nextIs (step ((idle synConfig).withFetchWord 64 0x12)) (fun t => t.status == 0x22 && t.cmd == 0x12) = true := by
  decide +kernel
/-- V-X8: the next command's start clears ILL and CAUSE. -/
theorem test_start_clears_rejection :
    nextIs (step { idle synConfig with status := 0x32, agenda := [.host (.writeReg 0 0x3)] })
      (fun t => t.status == 0x01 && t.cmd == 0x3) = true := by decide +kernel
/-- V-H3: KEY keeps bits 55:0. -/
theorem test_key_width :
    nextIs (step { idle synConfig with agenda := [.host (.writeReg 2 0xFF123456789ABCDE)] })
      (fun t => t.readReg 2 == 0x00123456789ABCDE) = true := by decide +kernel
/-- V-H2 for the buffers: an unwritten element has no value. -/
theorem test_unwritten_elements :
    faultIs (step { idle synConfig with agenda := [.host (.readText 0)] }) .unwrittenRead = true ∧
    faultIs (step { idle synConfig with agenda := [.host (.readBlk 3)] }) .unwrittenRead = true ∧
    faultIs (step ({ idle synConfig with blen := 1 }.withFetchWord 64 0x106)) .unwrittenOperand = true := by
  decide +kernel
/-- R36: an index beyond a buffer or the window reads 0. -/
theorem test_reads_beyond :
    nextIs (step { idle synConfig with agenda := [.host (.readText 32)] }) (fun t => t.replies == [0]) = true ∧
    nextIs (step { idle synConfig with agenda := [.host (.readBlk 4)] }) (fun t => t.replies == [0]) = true ∧
    nextIs (step { idle synConfig with agenda := [.host (.readReg 32)] }) (fun t => t.replies == [0]) = true := by
  decide +kernel
/-- R20: after a command, index 5 reads Y, index 0 CMD and index 1 STATUS (V-S1's Y). -/
theorem test_window_reads :
    nextIs (step { idle synConfig with cmd := 0x3, status := 0x12, y := 0xEFA7EFA7, agenda := [.host (.readReg 5)] })
      (fun t => t.replies == [0xEFA7EFA7]) = true ∧
    nextIs (step { idle synConfig with cmd := 0x3, status := 0x12, y := 0xEFA7EFA7, agenda := [.host (.readReg 0)] })
      (fun t => t.replies == [0x3]) = true ∧
    nextIs (step { idle synConfig with cmd := 0x3, status := 0x12, y := 0xEFA7EFA7, agenda := [.host (.readReg 1)] })
      (fun t => t.replies == [0x12]) = true := by decide +kernel
/-- R245: a write while BUSY = 1 is lost. -/
theorem test_write_while_busy :
    nextIs (step (running (idle synConfig) 0x3 [.host (.writeReg 3 5)])) (fun t => t.a == 0 && !t.written.a) = true := by
  decide +kernel
/-- V-K0a to V-K0f. -/
theorem test_rotl28 :
    [0x0000000, 0x0000001, 0x8000000, 0xFFFFFFF, 0x1234567, 0xAAAAAAA].map rotl28 =
      [0x0000000, 0x0000002, 0x0000001, 0xFFFFFFF, 0x2468ACE, 0x5555555] := by decide
/-- V-P4a. -/
theorem test_permute_repeats : permute 4 [64, 1, 1, 64] 0x8000000000000001 = 0xF := by decide

/-! ### Witnesses: for each obligation with hypotheses, states and operands that meet them, at the ends of each range -/

/-- The four blocks that fill BLK. -/
def fullBlocks : State := withBlocks synConfig 0x0F1E2D3C4B5A69 [1, 2, 0x4142434445464708, 0xFFFFFFFFFFFFFFFF]

/-- The 32 bytes that fill TEXT. -/
def fullText : State := withText synConfig (List.replicate 32 0x41)

/-- PROC.ENC has started on one block that nothing has written. -/
def waiting : State := running { idle synConfig with blen := 1 } 0x106 []

/-- The invariant from its checks. -/
theorem inv_of (s : State)
    (h : (s.legalStatus && Memory.wf s.text && Memory.within s.text s.textCap && Memory.wf s.blk &&
      Memory.within s.blk s.blkCap) = true) : EngineInv s := by
  simp only [Bool.and_eq_true, and_assoc] at h
  exact ⟨h.1, h.2.1, h.2.2.1, h.2.2.2.1, h.2.2.2.2⟩

/-- Both kinds of reserved OP, both ends; each of the four reserved fields; a legal word. -/
theorem witness_IllegalWordsAndTheirCauses :
    CommandWord.op 0x0 = 0 ∧ 9 ≤ CommandWord.op 0x9 ∧ 9 ≤ CommandWord.op 0xF ∧ CommandWord.rsv 0x201 ≠ 0 ∧
    (CommandWord.op 0x12 ≠ 1 ∧ CommandWord.sel 0x12 ≠ 0) ∧ (CommandWord.op 0x51 = 1 ∧ 5 ≤ CommandWord.sel 0x51) ∧
    (CommandWord.op 0x104 ≠ 5 ∧ CommandWord.op 0x104 ≠ 6 ∧ CommandWord.op 0x104 ≠ 8 ∧ CommandWord.d 0x104 ≠ 0) ∧
    CommandWord.wellFormed 0x41 = true ∧ CommandWord.wellFormed 0x108 = true := by decide

theorem witness_DecodeInvertsEncode : decode 0x108 = .ok .decodeCt ∧ (0x01 : Word) = encode .permIp := by
  constructor <;> rfl

theorem witness_StepRunsTheDecodedCommand_next :
    let s := running (idle synConfig) 0x01 [.engine]
    s.agenda = .engine :: [] ∧ s.busy = true ∧ decode s.cmd = .ok .permIp ∧
      ∃ t, exec .permIp { s with agenda := [] } = .next t :=
  ⟨rfl, by decide +kernel, rfl, _, rfl⟩
theorem witness_StepRunsTheDecodedCommand_fault_and_empty_agenda :
    (waiting.agenda = [] ∧ ([] : List Turn) = []) ∧ waiting.busy = true ∧ decode waiting.cmd = .ok .procEnc ∧
      exec .procEnc { waiting with agenda := [] } = .fault .unwrittenOperand :=
  ⟨⟨rfl, rfl⟩, by decide +kernel, rfl,
    State.proc_of_unwritten (s := waiting) (e := true) (by decide +kernel) (by decide +kernel)⟩
theorem witness_StepRunsTheDecodedCommand_withFetchWord :
    decode 0x02 = .ok .ksched ∧ ∃ t, exec .ksched { idle synConfig with cmd := 0x02, status := 0x01 } = .next t :=
  ⟨rfl, _, rfl⟩

theorem witness_IdleEngineTurnChangesNothing :
    (let s := { idle synConfig with agenda := [.engine] }
     s.agenda = .engine :: [] ∧ s.busy = false) ∧ (idle synConfig).agenda = [] ∧ (idle synConfig).busy = false := by
  decide +kernel

theorem witness_RejectionChangesOnlyStatus :
    (let s := running (idle synConfig) 0x209 [.engine]
     s.agenda = .engine :: [] ∧ s.busy = true ∧ decode s.cmd = .error .reservedOperation) ∧
    (let s := running (idle synConfig) 0x51 []
     s.agenda = [] ∧ s.busy = true ∧ decode s.cmd = .error .reservedField) ∧
    (let s := running { idle synConfig with tlen := 33 } 0x07 []
     s.agenda = [] ∧ s.busy = true ∧ decode s.cmd = .ok .encode ∧ s.lengthOk .encode = false) :=
  ⟨⟨rfl, by decide +kernel, rfl⟩, ⟨rfl, by decide +kernel, rfl⟩, rfl, by decide +kernel, rfl, by decide +kernel⟩

theorem witness_LengthsOutOfRangeAreRejected :
    (let s := { idle synConfig with tlen := 33 }
     s.textCap < s.tlen.toNat ∧ s.tlen.toNat = s.textCap + 1) ∧
    (let s := { idle synConfig with blen := 5 }
     s.blkCap < s.blen.toNat ∧ s.blen.toNat = s.blkCap + 1) := by decide +kernel

theorem witness_UnwrittenElementsFault :
    (let s := { fullText with text := fullText.text.dropLast }
     s.tlen.toNat = s.textCap ∧ 31 < s.tlen.toNat ∧ s.readText 31 = none) ∧
    (let s := { idle synConfig with blen := 4 }
     s.blen.toNat = s.blkCap ∧ 3 < s.blen.toNat ∧ s.readBlk 3 = none) := by decide +kernel

theorem witness_PermuteReadsFramePositions :
    (∀ e ∈ [1, 64], 1 ≤ e ∧ e ≤ 64) ∧ 0 < [1, 64].length ∧ 1 < [1, 64].length := by decide

theorem witness_NarrowValuesReadZero :
    (∀ e ∈ [1, 32], 1 ≤ e ∧ e ≤ 64) ∧ (0xFFFFFFFF : Word).toNat < 2 ^ 32 ∧ 1 < [1, 32].length ∧ [1, 32][1] ≤ 64 - 32 ∧
    (∀ e ∈ [1, 32], 1 ≤ e ∧ e ≤ 32) ∧ (∀ e ∈ [1, 16], 1 ≤ e ∧ e ≤ 16) ∧ (∀ e ∈ [1, 8], 1 ≤ e ∧ e ≤ 8) := by decide

/-- Two values that differ only in a bit the table does not read; two tables to compose. -/
theorem witness_PermuteLaws :
    (∀ e ∈ [1, 64], 1 ≤ e ∧ e ≤ 64) ∧
    (∀ e ∈ [1, 64], (0x8000000000000001 : Word).getLsbD (64 - e) = (0x8000000000000003 : Word).getLsbD (64 - e)) ∧
    candTables.ip.length = 64 ∧ (∀ e ∈ candTables.ip, 1 ≤ e ∧ e ≤ 64) := by decide

/-- CAND is accepted; CAND without its first PC2 entry is not. -/
theorem witness_ConfigurationsAccepted :
    (let c := candTables
     (c.ip.length = 64 ∧ c.fp.length = 64 ∧ c.e.length = 48 ∧ c.p.length = 32 ∧ c.pc2.length = 48) ∧
      (∀ e ∈ c.ip ++ c.fp ++ c.e ++ c.p ++ c.pc2, 1 ≤ e ∧ e ≤ 64) ∧
      (c.sbox.length = 4 ∧ ∀ box ∈ c.sbox, box.length = 4 ∧ ∀ row ∈ box, row.length = 16 ∧ ∀ v ∈ row, v ≤ 15) ∧
      c.ip.Nodup ∧ (∀ j, 1 ≤ j → j ≤ 64 → ∃ k, c.fp[j - 1]? = some k ∧ c.ip[k - 1]? = some j) ∧
      1 ≤ c.blkCap) ∧
    ({ candTables with pc2 := candTables.pc2.tail } : Tables).pc2.length ≠ 48 := by
  refine ⟨⟨by decide, by decide +kernel, by decide +kernel, by decide +kernel, fun j h1 h2 => ?_, by decide⟩,
    by decide⟩
  interval_cases j <;> exact ⟨_, rfl, rfl⟩

theorem witness_PermCommandsSelectBitsOfA :
    let s := idle synConfig
    (∀ r ∈ [(Instr.permIp, s.cfg.tables.ip), (.permFp, s.cfg.tables.fp), (.permE, s.cfg.tables.e),
      (.permP, s.cfg.tables.p), (.permPc2, s.cfg.tables.pc2)], 0 < r.2.length ∧ 31 < r.2.length ∧ r.2.length ≤ 64) := by
  decide +kernel

theorem witness_ScheduleWidthAndCountLaws :
    (createSubkeys candTables 1).length = 16 ∧ 4 < candTables.pc2.length ∧ candTables.pc2[4]? = some 1 ∧
    candTables.pc2[17]? = some 8 ∧ leftKey 0xAAAAAAA5555555 = 0xAAAAAAA ∧ rightKey 0xAAAAAAA5555555 = 0x5555555 ∧
    leftKey 0x5555555AAAAAAA = 0x5555555 ∧ rightKey 0x5555555AAAAAAA = 0xAAAAAAA ∧ 0 + 2 < 16 ∧ 13 + 2 < 16 := by
  decide +kernel

theorem witness_PureFunctionsRefuseWideArguments :
    2 ^ 56 ≤ 2 ^ 56 ∧ (∃ ch ∈ [0x41, 256], 255 < ch) := ⟨Nat.le_refl _, 256, by decide, by decide⟩

/-- CAND has only narrow P and E entries; under the mixed E table two halves that differ in bit 0 agree on what is read;
P of CAND has the entries 1 and 32. -/
theorem witness_NarrowTablesWeakenTheRound :
    (∀ e ∈ candConfig.tables.p, e ≤ 32) ∧ (∀ e ∈ candConfig.tables.e, e ≤ 32) ∧
    (∀ e ∈ mixedConfig.tables.e, 33 ≤ e →
      (0x80000000 : Half).getLsbD (64 - e) = (0x80000001 : Half).getLsbD (64 - e)) ∧
    (∃ e ∈ mixedConfig.tables.e, 33 ≤ e) ∧
    candConfig.tables.p[8]? = some 1 ∧ candConfig.tables.p[20]? = some 32 := by
  refine ⟨by decide +kernel, by decide +kernel, by decide +kernel, ⟨33, by decide +kernel, by decide⟩, ?_, ?_⟩ <;>
    decide +kernel

/-! The ends of the ranges of bits, rounds and groups. -/

theorem witness_RotationByOneBit : 0 < 27 ∧ 26 < 27 := by decide
theorem witness_ScheduleRotatesThenCompresses : 0 < 16 ∧ 15 < 16 := by decide
theorem witness_KschedWritesTheSchedule : 0 < 16 ∧ 15 < 16 := by decide
theorem witness_SboxLooksUpEachGroup : 0 < 8 ∧ 7 < 8 := by decide
theorem witness_SboxCommandSubstitutesA : 0 < 8 ∧ 7 < 8 := by decide
theorem witness_BlockFunctionIsSixteenRounds : 0 < 16 ∧ 15 < 16 := by decide
theorem witness_DecryptionInvertsEncryption : 0 ≤ 16 ∧ 16 ≤ 16 := by decide

theorem witness_NarrowPTableIgnoresTheKey : ∀ e ∈ candConfig.tables.p, e ≤ 32 := by decide +kernel

theorem witness_PalindromicSchedules :
    createSubkeys synConfig.tables 0xFFFFFFFFFFFFFF = (createSubkeys synConfig.tables 0xFFFFFFFFFFFFFF).reverse := by
  decide +kernel

theorem witness_BlocksAreIndependent : ([5, 6] : List Word)[1]? = some 6 := by decide

/-- BLEN = BLK_CAP with all of BLK written, and BLEN = 0; both directions. -/
theorem witness_ProcCommandsWorkInPlace :
    (Instr.procEnc, true) ∈ [(Instr.procEnc, true), (.procDec, false)] ∧
    (Instr.procDec, false) ∈ [(Instr.procEnc, true), (.procDec, false)] ∧
    fullBlocks.blen.toNat = fullBlocks.blkCap ∧ 0 < fullBlocks.blkCap ∧
    (∀ j, j < fullBlocks.blen.toNat → (fullBlocks.readBlk j).isSome) ∧
    (idle synConfig).blen.toNat = 0 ∧ (∀ j, j < (idle synConfig).blen.toNat → ((idle synConfig).readBlk j).isSome) := by
  decide +kernel

theorem witness_ProcDecUndoesProcEnc :
    EngineInv fullBlocks ∧ fullBlocks.blen.toNat ≤ fullBlocks.blkCap ∧
    (∀ j, j < fullBlocks.blen.toNat → (fullBlocks.readBlk j).isSome) :=
  ⟨inv_of _ (by decide +kernel), by decide +kernel, by decide +kernel⟩

theorem witness_BlocksPackBigEndian :
    (ascii "ABCDEFGH").length = 8 ∧ (ascii "ABCDEFGH")[0]? = some 0x41 ∧ (ascii "ABCDEFGH")[7]? = some 0x48 := by
  decide +kernel

theorem witness_EncodePadsTheLastSegment :
    (encodeText (ascii "ABC"))[0]? = some 0x4142430505050505 ∧ 8 * 0 + 2 < (ascii "ABC").length ∧
    ¬8 * 0 + 3 < (ascii "ABC").length := by decide +kernel

theorem witness_CiphertextDecodeKeepsEveryByte : ([0, 0x4142430000000000] : List Word)[1]? = some 0x4142430000000000 := by
  decide

/-- No byte left; a last byte of 9, of 8 and of 1. -/
theorem witness_PlaintextDecodeDropsZerosAndStrips :
    let nz := fun blocks : List Word => (decodeText blocks true).filter (· ≠ 0)
    nz [0] = [] ∧ (nz [0x4100000000000009] = [0x41] ++ [9] ∧ 8 < (9 : Byte).toNat) ∧
    (nz [0x4100000000000008] = [0x41] ++ [8] ∧ (8 : Byte).toNat ≤ 8) ∧
    (nz [0x0100000000000000] = [] ++ [1] ∧ (1 : Byte).toNat ≤ 8) := by decide +kernel

/-- Lengths 5, 0 and 8; texts that come back, the last byte well above 8 and 9; a text that does not, the last byte 8. -/
theorem witness_CodecRoundTripLaw :
    (ascii "HELLO").length % 8 ≠ 0 ∧ ([] : List Byte).length = 0 ∧
    (0 < (ascii "TESTDATA").length ∧ (ascii "TESTDATA").length % 8 = 0) ∧
    ((0 : Byte) ∉ ascii "TESTDATA" ∧ (ascii "TESTDATA").getLast? = some 0x41 ∧ 8 < (0x41 : Byte).toNat) ∧
    (let t := ascii "1234567" ++ [9]
     (0 : Byte) ∉ t ∧ t.length % 8 = 0 ∧ t.getLast? = some 9 ∧ 8 < (9 : Byte).toNat) ∧
    (let t := ascii "1234567" ++ [8]
     (0 : Byte) ∉ t ∧ t.length % 8 = 0 ∧ t.getLast? = some 8 ∧ ¬8 < (8 : Byte).toNat) := by
  decide +kernel

/-- TLEN = TEXT_CAP with all of TEXT written, TLEN = 0, and a text with padding. -/
theorem witness_EncodeCommandPacksText :
    (fullText.tlen.toNat = fullText.textCap ∧ ∀ i, i < fullText.tlen.toNat → (fullText.readText i).isSome) ∧
    ((idle synConfig).tlen.toNat = 0 ∧
      ∀ i, i < (idle synConfig).tlen.toNat → ((idle synConfig).readText i).isSome) ∧
    (let s := withText synConfig (ascii "ABC")
     s.tlen.toNat ≤ s.textCap ∧ ∀ i, i < s.tlen.toNat → (s.readText i).isSome) := by decide +kernel

theorem witness_DecodeCtCommandUnpacksBlocks :
    fullBlocks.blen.toNat = fullBlocks.blkCap ∧ 8 * fullBlocks.blen.toNat < 2 ^ 64 ∧
    ∀ j, j < fullBlocks.blen.toNat → (fullBlocks.readBlk j).isSome := by decide +kernel

/-- A buffer of 2^61 blocks, all written: the text DECODE.CT makes of it is too long for TLEN. -/
theorem witness_DecodeCt_of_a_text_too_long_for_TLEN :
    ∃ s : State, s.blen.toNat ≤ s.blkCap ∧ ¬8 * s.blen.toNat < 2 ^ 64 ∧
      ∀ j, j < s.blen.toNat → (s.readBlk j).isSome := by
  obtain ⟨n, hn⟩ : ∃ n, n = 2 ^ 61 := ⟨_, rfl⟩
  have cap : (idle hugeConfig).blkCap = n := hn ▸ rfl
  have len : (BitVec.ofNat 64 n : Word).toNat = n := by rw [hn]; rfl
  refine ⟨{ (idle hugeConfig).writeBlkFrom 0 (List.replicate n 0) with blen := BitVec.ofNat 64 n }, ?_, ?_, ?_⟩
  · show (BitVec.ofNat 64 n : Word).toNat ≤ ((idle hugeConfig).writeBlkFrom 0 (List.replicate n 0)).blkCap
    rw [State.writeBlkFrom_eq, len]
    exact cap.ge
  · show ¬8 * (BitVec.ofNat 64 n : Word).toNat < 2 ^ 64
    omega
  · intro j hj
    have hj : j < n := len ▸ hj
    show (((idle hugeConfig).writeBlkFrom 0 (List.replicate n 0)).readBlk j).isSome
    rw [State.readBlk_writeBlkFrom _ 0 _ (by rw [List.length_replicate]; omega),
      if_pos ⟨by omega, by rw [List.length_replicate]; omega⟩]
    simp [hj]

theorem witness_DecodePtCommandRecoversText :
    let blocks : List Word := [1, 2, 0x4142434445464708, 0xFFFFFFFFFFFFFFFF]
    fullBlocks.blen.toNat ≤ fullBlocks.blkCap ∧ blocks.length = fullBlocks.blen.toNat ∧
    (decodeText blocks false).length < 2 ^ 64 ∧ 0 < (decodeText blocks false).length ∧
    ∀ j, j < fullBlocks.blen.toNat → fullBlocks.readBlk j = blocks[j]? := by decide +kernel

/-- A text with padding, the empty text, and texts of 8 bytes, one with last byte 9. -/
theorem witness_TextSurvivesThePipeline :
    (let s := withText synConfig (ascii "HELLO")
     s.tlen.toNat ≤ s.textCap ∧ (ascii "HELLO").length = s.tlen.toNat ∧
      (∀ i, i < s.tlen.toNat → s.readText i = (ascii "HELLO")[i]?) ∧ (0 : Byte) ∉ ascii "HELLO" ∧
      (ascii "HELLO").length % 8 ≠ 0) ∧
    ((idle synConfig).tlen.toNat ≤ (idle synConfig).textCap ∧ ([] : List Byte).length = (idle synConfig).tlen.toNat) ∧
    (let s := withText synConfig (ascii "TESTDATA")
     s.tlen.toNat ≤ s.textCap ∧ (ascii "TESTDATA").length = s.tlen.toNat ∧
      (∀ i, i < s.tlen.toNat → s.readText i = (ascii "TESTDATA")[i]?) ∧ (0 : Byte) ∉ ascii "TESTDATA" ∧
      (ascii "TESTDATA").getLast? = some 0x41 ∧ 8 < (0x41 : Byte).toNat) ∧
    (let text := ascii "1234567" ++ [9]
     let s := withText synConfig text
     s.tlen.toNat ≤ s.textCap ∧ text.length = s.tlen.toNat ∧ (∀ i, i < s.tlen.toNat → s.readText i = text[i]?) ∧
      (0 : Byte) ∉ text ∧ text.getLast? = some 9 ∧ 8 < (9 : Byte).toNat) := by decide +kernel

/-- Reset while a command runs; the ends of both buffers. -/
theorem witness_ResetState :
    let s := running fullBlocks 0x106 [.reset]
    s.agenda = .reset :: [] ∧ s.busy = true ∧ 0 < s.textCap ∧ 31 < s.textCap ∧ 0 < s.blkCap ∧ 3 < s.blkCap := by
  decide +kernel

theorem witness_CmdWriteStartsACommand :
    let s := { idle synConfig with status := 0x32, agenda := [.host (.writeReg 0 0x101)] }
    s.agenda = .host (.writeReg 0 0x101) :: [] ∧ s.busy = false := by decide +kernel

/-- Any access can stand at the head of the agenda of a running engine; the ends of the unspecified ranges. -/
theorem witness_HostAccessWhileBusy :
    (∀ access ∈ [HostAccess.writeReg 0 3, .writeText 0 3, .writeBlk 0 3, .readReg 0, .readReg 1, .readReg 2, .readReg 3,
      .readReg 4, .readReg 5, .readReg 7, .readReg 16, .readReg 31, .readText 0, .readText 31, .readBlk 0, .readBlk 3] ++
      [.readReg 8, .readReg 15, .readReg 32, .readText 32, .readBlk 4],
      let s := running fullBlocks 0x106 [.host access]
      s.agenda = .host access :: [] ∧ s.busy = true ∧ s.legalStatus = true) ∧
    31 < fullBlocks.textCap ∧ fullBlocks.textCap ≤ 32 ∧ 3 < fullBlocks.blkCap ∧ fullBlocks.blkCap ≤ 4 := by
  decide +kernel

theorem witness_RegisterWindow :
    (idle synConfig).busy = false ∧ (3 ∈ [3, 4, 6, 7] ∧ 7 ∈ [3, 4, 6, 7]) ∧ (8 ≤ 8 ∧ 15 ≤ 15) ∧ 8 ≤ 31 ∧ 32 ≤ 32 := by
  decide +kernel

theorem witness_BufferAccess :
    fullText.busy = false ∧ 0 < fullText.textCap ∧ 31 < fullText.textCap ∧ 0 < fullText.blkCap ∧ 3 < fullText.blkCap ∧
    fullText.readText 31 = some 0x41 ∧ fullText.readBlk 3 = none ∧ fullText.textCap ≤ 32 ∧ fullText.blkCap ≤ 4 ∧
    fullBlocks.busy = false ∧ fullBlocks.readBlk 3 = some 0xFFFFFFFFFFFFFFFF ∧ fullBlocks.readText 0 = none := by
  decide +kernel

/-- No poll, and three polls, before the engine's step. -/
theorem witness_RunCompletesWhateverTheLatency :
    ∀ polls ∈ [0, 3],
      let s := { idle synConfig with agenda := runTurns .permIp polls ++ readYTurns }
      s.busy = false ∧ s.agenda = runTurns .permIp polls ++ readYTurns ∧
      ∃ t, exec .permIp { s with
        cmd := encode .permIp, status := 0x01, agenda := .host (.readReg 1) :: readYTurns
        replies := List.replicate polls 1 ++ s.replies } = .next t :=
  fun _ _ => ⟨show (idle synConfig).busy = false by decide +kernel, rfl, _, rfl⟩

theorem witness_StepKeepsTheInvariant :
    EngineInv (running fullBlocks 0x106 [.engine]) ∧
    nextIs (step (running fullBlocks 0x106 [.engine])) (fun t => decide (t.blk ≠ fullBlocks.blk)) = true :=
  ⟨inv_of _ (by decide +kernel), by decide +kernel⟩

theorem witness_StepKeepsTheConfiguration :
    nextIs (step { idle synConfig with agenda := [.reset] }) (fun _ => true) = true ∧
    nextIs (step (running fullBlocks 0x106 [])) (fun _ => true) = true := by decide +kernel

/-- A command with effect, of each kind that writes, and a rejection. -/
theorem witness_CommandsWriteOnlyTheirWriteSet :
    (∀ i ∈ [Instr.permIp, .ksched, .procEnc, .procDec, .decodePt, .decodeCt],
      nextIs (exec i fullBlocks) (fun t => decide (t ≠ fullBlocks) && t.status == fullBlocks.status) = true) ∧
    nextIs (exec .encode fullText) (fun t => decide (t.blen ≠ fullText.blen)) = true ∧
    nextIs (exec .encode { fullText with tlen := 33 }) (fun t => t.status == 0x32) = true := by decide +kernel

/-- For each clause, two states that agree on what is read and differ elsewhere; the commands complete on both. -/
theorem witness_CommandsReadOnlyTheirReadSet :
    (let s := withOperands synConfig 0x1111222233334444 0x5555 0x77
     let s' := withOperands synConfig 0x9999222233334444 0xFFFF000000005555 0x77
     let s'' := withOperands synConfig 0x1111222233334444 0xFFFF000000005555 0x77
     s.cfg = s'.cfg ∧ s.a.extractLsb' 0 48 = s'.a.extractLsb' 0 48 ∧ s.a ≠ s'.a ∧ s.key = s'.key ∧
     s.a = s''.a ∧ s.b ≠ s''.b ∧ s.b.extractLsb' 0 48 = s''.b.extractLsb' 0 48) ∧
    (let s := fullBlocks
     let s' := { fullBlocks.setA 9 with text := [(0, 1)] }
     s.cfg = s'.cfg ∧ s.key = s'.key ∧ s.blen = s'.blen ∧ (∀ j, j < s.blen.toNat → s.readBlk j = s'.readBlk j) ∧
     s.blen.toNat ≤ s.blkCap ∧ s ≠ s' ∧
     (∀ i ∈ [Instr.procEnc, .procDec, .decodePt, .decodeCt],
       nextIs (exec i s) (fun _ => true) = true ∧ nextIs (exec i s') (fun _ => true) = true)) ∧
    (let s := fullText
     let s' := { fullText.setA 9 with blk := [(0, 1)] }
     s.cfg = s'.cfg ∧ s.tlen = s'.tlen ∧ (∀ k, k < s.tlen.toNat → s.readText k = s'.readText k) ∧
     s.tlen.toNat ≤ s.textCap ∧ s ≠ s' ∧
     nextIs (exec .encode s) (fun _ => true) = true ∧ nextIs (exec .encode s') (fun _ => true) = true) := by
  decide +kernel

/-- A turn of each kind that reads only written cells; every command with its operands written. -/
theorem witness_OnlyUnwrittenReadsStop :
    (∀ turn ∈ [Turn.engine, Turn.reset, Turn.host (.readReg 2), Turn.host (.readBlk 3), Turn.host (.readText 32),
      Turn.host (.writeReg 0 1)], fullBlocks.turnReadsWritten turn = true) ∧
    (running fullBlocks 0x106 []).turnReadsWritten .engine = true ∧
    (∀ i ∈ [Instr.permIp, .permFp, .permE, .permP, .permPc2, .ksched, .sbox, .round, .cryptDec, .cryptEnc],
      (withOperands synConfig 1 2 3).operandsWritten i = true) ∧
    (∀ i ∈ [Instr.procDec, .procEnc, .decodePt, .decodeCt], fullBlocks.operandsWritten i = true) ∧
    fullText.operandsWritten .encode = true := by decide +kernel

end Sys2Proof.Tests
end

section
/-! PROOFS. How bytes stand in a block (spec/44_codec.md, R51): `packBytes`, `unpackBlock`, and that they are inverse. -/

namespace Sys2Proof.Machine

/-- Packing one byte more moves the bytes packed before it up by 8 bits (R51). -/
theorem packBytes_concat (bytes : List Byte) (b : Byte) :
    packBytes (bytes ++ [b]) = packBytes bytes <<< 8 ||| b.setWidth 64 := by
  simp [packBytes]

/-- The byte shifted into a word from below is its lowest byte. -/
theorem extractLsb'_zero_shiftIn (w : Word) (b : Byte) :
    (w <<< 8 ||| b.setWidth 64).extractLsb' 0 8 = b := by
  ext i hi
  simp [hi, show i < 64 by omega]

/-- Every other byte of the word is 8 bits higher than before, but for the one shifted out at the top. -/
theorem extractLsb'_shiftIn (w : Word) (b : Byte) {n : Nat} (hn : n + 16 ≤ 64) :
    (w <<< 8 ||| b.setWidth 64).extractLsb' (n + 8) 8 = w.extractLsb' n 8 := by
  apply BitVec.eq_of_getLsbD_eq
  intro i hi
  have hup : n + 8 + i < 64 ∧ ¬n + 8 + i < 8 ∧ n + 8 + i - 8 = n + i := by omega
  have hout : b.getLsbD (n + 8 + i) = false := b.getLsbD_of_ge _ (by omega)
  simp [hi, hup, hout, BitVec.getLsbD_eq_getElem (show n + i < 64 by omega)]

/-- Of at most 8 packed bytes the last one is lowest and the first one highest: no byte is shifted out. -/
theorem extractLsb'_packBytes (bytes : List Byte) (hlen : bytes.length ≤ 8) (k : Nat) (hk : k < bytes.length) :
    (packBytes bytes).extractLsb' (8 * (bytes.length - 1 - k)) 8 = bytes[k] := by
  induction bytes using List.reverseRecOn with
  | nil => simp at hk
  | append_singleton bytes b ih =>
    simp only [List.length_append, List.length_singleton] at hlen hk ⊢
    rw [packBytes_concat]
    obtain hlast | hbefore : k = bytes.length ∨ k < bytes.length := by omega
    · subst hlast
      simpa using extractLsb'_zero_shiftIn (packBytes bytes) b
    · have hup : 8 * (bytes.length + 1 - 1 - k) = 8 * (bytes.length - 1 - k) + 8 := by omega
      rw [hup, extractLsb'_shiftIn _ _ (by omega), ih (by omega) hbefore, List.getElem_append_left hbefore]

/-- Byte k of 8 packed bytes is bits 63-8k down to 56-8k (R51). -/
theorem extractLsb'_packBytes_of_length_eq_eight {bytes : List Byte} (hlen : bytes.length = 8) {k : Nat}
    (hk : k < bytes.length) : (packBytes bytes).extractLsb' (56 - 8 * k) 8 = bytes[k] := by
  have hpos : 56 - 8 * k = 8 * (bytes.length - 1 - k) := by omega
  rw [hpos, extractLsb'_packBytes bytes hlen.le k hk]

@[simp] theorem length_unpackBlock (v : Word) : (unpackBlock v).length = 8 := by
  simp [unpackBlock]

@[simp] theorem getElem_unpackBlock (v : Word) {k : Nat} (hk : k < (unpackBlock v).length) :
    (unpackBlock v)[k] = v.extractLsb' (56 - 8 * k) 8 := by
  simp [unpackBlock]

/-- The bytes of a block determine it: bit i stands in byte 7 - i/8, at place i mod 8. -/
theorem unpackBlock_injective : Function.Injective unpackBlock := by
  intro v w h
  ext i hi
  have hbyte : v.extractLsb' (56 - 8 * (7 - i / 8)) 8 = w.extractLsb' (56 - 8 * (7 - i / 8)) 8 := by
    simpa [show 7 - i / 8 < 8 by omega] using congrArg (·[7 - i / 8]?) h
  have hbit := congrArg (·.getLsbD (i % 8)) hbyte
  have hpos : 56 - 8 * (7 - i / 8) + i % 8 = i := by omega
  simpa [hpos, Nat.mod_lt, hi] using hbit

theorem unpackBlock_packBytes {bytes : List Byte} (hlen : bytes.length = 8) :
    unpackBlock (packBytes bytes) = bytes := by
  apply List.ext_getElem
  · simp [hlen]
  · intro k _ hk
    rw [getElem_unpackBlock, extractLsb'_packBytes_of_length_eq_eight hlen hk]

@[simp] theorem packBytes_unpackBlock (v : Word) : packBytes (unpackBlock v) = v :=
  unpackBlock_injective (unpackBlock_packBytes (length_unpackBlock v))

/-- Settles O34: the bytes of a packed block by induction on the bytes; packing undoes unpacking because the bytes of a
block determine it. -/
theorem blocksPackBigEndian : Obligations.BlocksPackBigEndian := by
  refine ⟨fun bytes hlen k b hb => ?_, fun v k hk => ?_, fun v => ⟨length_unpackBlock v, packBytes_unpackBlock v⟩,
    fun bytes hlen => unpackBlock_packBytes hlen⟩
  · obtain ⟨hk, rfl⟩ := List.getElem?_eq_some_iff.mp hb
    exact extractLsb'_packBytes_of_length_eq_eight hlen hk
  · exact List.getElem?_eq_some_iff.mpr ⟨by simpa using hk, getElem_unpackBlock v _⟩

end Sys2Proof.Machine
end

section
/-! PROOFS. Which bit of the block each bit of `permute` is (spec/40_permute.md, R100), and what follows from that:
narrow values (R102) and the algebraic laws (R108). -/

namespace Sys2Proof.Machine

/-- The bit a table entry reads stands at the bottom of its word, and nothing stands above it. -/
theorem getLsbD_frameBit (block : Word) (entry i : Nat) :
    (frameBit block entry).getLsbD i = (decide (i = 0) && block.getLsbD (64 - entry)) := by
  obtain rfl | hi := Nat.eq_zero_or_pos i
  · simp [frameBit]
  · simp [frameBit, hi.ne']

/-- One entry more moves the bits of the entries before it up by one place (R100). -/
theorem permute_concat (w : Nat) (table : List Nat) (entry : Nat) (block : Word) :
    permute w (table ++ [entry]) block =
      permute w table block <<< 1 ||| (frameBit block entry).setWidth w := by
  simp [permute]

/-- Entry j reads bit 64 - entry and becomes output bit L - 1 - j (R100), where the output has room for L bits. -/
theorem getLsbD_permute {w : Nat} (table : List Nat) (block : Word) (hlen : table.length ≤ w) {j : Nat}
    (hj : j < table.length) :
    (permute w table block).getLsbD (table.length - 1 - j) = block.getLsbD (64 - table[j]) := by
  induction table using List.reverseRecOn with
  | nil => simp at hj
  | append_singleton table entry ih =>
    simp only [List.length_append, List.length_singleton] at hlen hj ⊢
    rw [permute_concat]
    obtain hlast | hbefore : j = table.length ∨ j < table.length := by omega
    · subst hlast
      have hlow : table.length + 1 - 1 - table.length = 0 := by omega
      simp only [hlow, List.getElem_concat_length]
      simp [-BitVec.getLsbD_eq_getElem, getLsbD_frameBit, show 0 < w by omega]
    · have hup : table.length + 1 - 1 - j = table.length - 1 - j + 1 := by omega
      have hroom : table.length - 1 - j + 1 < w := by omega
      rw [hup, List.getElem_append_left hbefore, ← ih (by omega) hbefore]
      simp [-BitVec.getLsbD_eq_getElem, hroom, getLsbD_frameBit]

/-- The bits that the entries read, each in its place, are the permuted value: a table fills the whole output. -/
theorem permute_eq_iff {w : Nat} {table : List Nat} (hlen : table.length = w) (block : Word) (x : BitVec w) :
    permute w table block = x ↔
      ∀ (j : Nat) (hj : j < table.length), block.getLsbD (64 - table[j]) = x.getLsbD (table.length - 1 - j) := by
  constructor
  · rintro rfl j hj
    exact (getLsbD_permute table block hlen.le hj).symm
  · intro h
    apply BitVec.eq_of_getLsbD_eq
    intro i hi
    have hj : table.length - 1 - i < table.length := by omega
    have hpos : table.length - 1 - (table.length - 1 - i) = i := by omega
    have hbit := (getLsbD_permute table block hlen.le hj).trans (h _ hj)
    rwa [hpos] at hbit

/-- A value below 2^w reads 0 where an entry is at most 64 - w (R102). -/
theorem getLsbD_frame_of_lt {block : Word} {w entry : Nat} (hblock : block.toNat < 2 ^ w) (hentry : entry ≤ 64 - w) :
    block.getLsbD (64 - entry) = false := by
  obtain hw | hw : w ≤ 64 - entry ∨ 64 ≤ 64 - entry := by omega
  · exact Nat.testBit_lt_two_pow (hblock.trans_le (Nat.pow_le_pow_right (by decide) hw))
  · exact block.getLsbD_of_ge _ hw

/-- A value of v bits, handed over zero-extended, permutes to 0 under entries of at most 64 - v (R102). -/
theorem permute_setWidth_eq_zero {w v : Nat} {table : List Nat} (hlen : table.length = w) (value : BitVec v)
    (hv : v ≤ 64) (hentries : ∀ e ∈ table, e ≤ 64 - v) : permute w table (value.setWidth 64) = 0 := by
  rw [permute_eq_iff hlen]
  intro j hj
  have hnarrow : (value.setWidth 64).toNat < 2 ^ v := by
    rw [BitVec.toNat_setWidth_of_le hv]
    exact value.isLt
  rw [getLsbD_frame_of_lt hnarrow (hentries _ (List.getElem_mem hj)), BitVec.ofNat_eq_ofNat, BitVec.getLsbD_zero]

/-- `permute` of 0 is 0 (R108). -/
theorem permute_zero {w : Nat} {table : List Nat} (hlen : table.length = w) : permute w table 0 = 0 := by
  simp [permute_eq_iff hlen]

/-- `permute` is linear over XOR (R108). -/
theorem permute_xor {w : Nat} {table : List Nat} (hlen : table.length = w) (a b : Word) :
    permute w table (a ^^^ b) = permute w table a ^^^ permute w table b := by
  rw [permute_eq_iff hlen]
  intro j hj
  simp only [BitVec.getLsbD_xor, getLsbD_permute table _ hlen.le hj]

/-- `permute` depends only on the bits that the table names (R108). -/
theorem permute_congr {w : Nat} {table : List Nat} (hlen : table.length = w) {a b : Word}
    (hnamed : ∀ e ∈ table, a.getLsbD (64 - e) = b.getLsbD (64 - e)) : permute w table a = permute w table b := by
  rw [permute_eq_iff hlen]
  intro j hj
  rw [hnamed _ (List.getElem_mem hj), getLsbD_permute table b hlen.le hj]

/-- The identity table [1..64] returns the value (R108). -/
theorem permute_range' (a : Word) : permute 64 (List.range' 1 64) a = a := by
  rw [permute_eq_iff List.length_range']
  intro j hj
  rw [List.getElem_range', List.length_range', show 64 - (1 + 1 * j) = 64 - 1 - j by omega]

/-- An entry of a later table names a bit of the value permuted before: entry k of the table is what it reads. -/
theorem getLsbD_frame_permute {table : List Nat} (hlen : table.length = 64) (a : Word) {k : Nat}
    (hk : 1 ≤ k ∧ k ≤ 64) :
    (permute 64 table a).getLsbD (64 - k) = a.getLsbD (64 - table.getD (k - 1) 0) := by
  have hin : k - 1 < table.length := by omega
  have hpos : 64 - k = table.length - 1 - (k - 1) := by omega
  rw [hpos, getLsbD_permute table a hlen.le hin, List.getD_eq_getElem _ _ hin]

/-- Permuting by T1 and then by T2 is permuting by T1[T2[j] - 1] (R108). -/
theorem permute_permute {w : Nat} {T1 T2 : List Nat} (hlen1 : T1.length = 64) (hlen2 : T2.length = w)
    (hentries : ∀ e ∈ T2, 1 ≤ e ∧ e ≤ 64) (a : Word) :
    permute w T2 (permute 64 T1 a) = permute w (T2.map fun k => T1.getD (k - 1) 0) a := by
  have hlen : (T2.map fun k => T1.getD (k - 1) 0).length = w := by rw [List.length_map, hlen2]
  rw [eq_comm, permute_eq_iff hlen]
  intro j hj
  simp only [List.getElem_map, List.length_map] at hj ⊢
  rw [getLsbD_permute T2 _ hlen2.le hj, getLsbD_frame_permute hlen1 a (hentries _ (List.getElem_mem hj))]

/-- Settles O9: induction on the table's entries; each new entry moves the bits before it up by one place. -/
theorem permuteReadsFramePositions : Obligations.PermuteReadsFramePositions :=
  fun table block _ _ hj => getLsbD_permute table block le_rfl hj

/-- Settles O10: the named bit lies at or above the value's width. -/
theorem narrowValuesReadZero : Obligations.NarrowValuesReadZero := by
  refine ⟨fun table block w _ hblock j hj hentry => ?_,
    fun table v h => permute_setWidth_eq_zero rfl v (by decide) fun e he => (h e he).2,
    fun table v h => permute_setWidth_eq_zero rfl v (by decide) fun e he => (h e he).2,
    fun table v h => permute_setWidth_eq_zero rfl v (by decide) fun e he => (h e he).2⟩
  rw [getLsbD_permute table block le_rfl hj]
  exact getLsbD_frame_of_lt hblock hentry

/-- Settles O11: each law compares the bits that the entries read. -/
theorem permuteLaws : Obligations.PermuteLaws :=
  ⟨fun _ => permute_zero rfl, fun _ a b => permute_xor rfl a b, fun _ _ _ _ hnamed => permute_congr rfl hnamed,
    permute_range', fun _ _ a hlen _ hentries => permute_permute hlen rfl hentries a⟩

end Sys2Proof.Machine
end

section
/-! PROOFS. How a half of the key rotates (spec/41_key_schedule.md, R120), what each subkey is (R121, R122), and the
width and count laws of the schedule (R125). -/

namespace Sys2Proof.Machine

/-- R120 on 32-bit words with the mask `& 0xFFFFFFF` is `rotl28`: the mask is the 28-bit width. -/
theorem rotl28_eq_masked (b : KeyHalf) :
    rotl28 b = ((b.setWidth 32 <<< 1 ||| b.setWidth 32 >>> 27) &&& 0xFFFFFFF).setWidth 28 := by
  have hmask : (0xFFFFFFF : BitVec 32).setWidth 28 = BitVec.allOnes 28 := by decide
  rw [BitVec.setWidth_and, hmask, BitVec.and_allOnes]
  ext i hi
  obtain rfl | hup : i = 0 ∨ 28 ≤ 27 + i := by omega
  · simp [rotl28]
  · simp [rotl28, show i < 32 by omega, b.getLsbD_of_ge _ hup]

theorem rotl28_eq_rotateLeft (b : KeyHalf) : rotl28 b = b.rotateLeft 1 := rfl

theorem rotl28_iterate_succ (n : Nat) (b : KeyHalf) : rotl28^[n + 1] b = (rotl28^[n] b).rotateLeft 1 :=
  Function.iterate_succ_apply' rotl28 n b

/-- Bit 27 moves to bit 0, and each other bit up one place (R120): places are counted modulo 28. -/
theorem getLsbD_rotl28 (b : KeyHalf) {k : Nat} (hk : k < 28) :
    (rotl28 b).getLsbD ((k + 1) % 28) = b.getLsbD k := by
  rw [rotl28_eq_rotateLeft, BitVec.getLsbD_rotateLeft]
  obtain rfl | hlow : k = 27 ∨ k + 1 < 28 := by omega
  · rfl
  · simp [Nat.mod_eq_of_lt hlow, hlow]

/-- Each rotation moves a bit one place further. -/
theorem getLsbD_rotl28_iterate (n : Nat) (b : KeyHalf) {k : Nat} (hk : k < 28) :
    (rotl28^[n] b).getLsbD ((k + n) % 28) = b.getLsbD k := by
  induction n with
  | zero => rw [Nat.add_zero, Nat.mod_eq_of_lt hk, Function.iterate_zero_apply]
  | succ n ih =>
    have hplace : (k + (n + 1)) % 28 = ((k + n) % 28 + 1) % 28 := by omega
    rw [Function.iterate_succ_apply', hplace, getLsbD_rotl28 _ (Nat.mod_lt _ (by decide)), ih]

/-- After 28 rotations every bit is back in its place. -/
theorem rotl28_iterate_28 (b : KeyHalf) : rotl28^[28] b = b := by
  apply BitVec.eq_of_getLsbD_eq
  intro k hk
  simpa [Nat.mod_eq_of_lt hk] using getLsbD_rotl28_iterate 28 b hk

/-- The two halves of R121 are the whole key. -/
theorem leftKey_append_rightKey (key : Key) : leftKey key ++ rightKey key = key := by
  unfold leftKey rightKey
  ext i hi
  simp only [BitVec.getElem_append, BitVec.getElem_extractLsb']
  split
  · rw [Nat.zero_add, BitVec.getLsbD_eq_getElem]
  · rw [Nat.add_sub_cancel' (by omega), BitVec.getLsbD_eq_getElem]

/-- Entry i of a schedule that starts from the halves l and r (R122): both are rotated i + 1 times, concatenated, and
compressed by PC2. -/
def roundSubkey (c : Tables) (l r : KeyHalf) (i : Nat) : Subkey :=
  permute 48 c.pc2 ((rotl28^[i + 1] l ++ rotl28^[i + 1] r : Key).setWidth 64)

/-- The halves carry over from round to round (R122). -/
theorem subkeysFrom_eq_map (c : Tables) (n : Nat) (l r : KeyHalf) :
    subkeysFrom c n l r = (List.range n).map (roundSubkey c l r) := by
  induction n generalizing l r with
  | zero => rfl
  | succ n ih =>
    have hlater : roundSubkey c (rotl28 l) (rotl28 r) = roundSubkey c l r ∘ Nat.succ := rfl
    rw [List.range_succ_eq_map, List.map_cons, List.map_map, ← hlater, ← ih]
    rfl

theorem createSubkeys_eq_map (c : Tables) (key : Key) :
    createSubkeys c key = (List.range 16).map (roundSubkey c (leftKey key) (rightKey key)) :=
  subkeysFrom_eq_map c 16 _ _

@[simp] theorem length_createSubkeys (c : Tables) (key : Key) : (createSubkeys c key).length = 16 := by
  simp [createSubkeys_eq_map]

theorem getElem?_createSubkeys (c : Tables) (key : Key) {r : Nat} (hr : r < 16) :
    (createSubkeys c key)[r]? = some (roundSubkey c (leftKey key) (rightKey key) r) := by
  simp [createSubkeys_eq_map, hr]

theorem mem_createSubkeys {c : Tables} {key : Key} {k : Subkey} :
    k ∈ createSubkeys c key ↔ ∃ r < 16, roundSubkey c (leftKey key) (rightKey key) r = k := by
  simp [createSubkeys_eq_map]

/-- A PC2 entry of at most 8 names a bit above the 56-bit concatenation (R102), so its output bit is 0 (R125). -/
theorem getLsbD_roundSubkey_of_entry_le {c : Tables} (hlen : c.pc2.length = 48) (l r : KeyHalf) (i : Nat) {j : Nat}
    (hj : j < c.pc2.length) (hentry : c.pc2[j] ≤ 8) : (roundSubkey c l r i).getLsbD (47 - j) = false := by
  have hpos : 47 - j = c.pc2.length - 1 - j := by omega
  rw [roundSubkey, hpos, getLsbD_permute c.pc2 _ hlen.le hj]
  apply getLsbD_frame_of_lt (w := 56) _ hentry
  rw [BitVec.toNat_setWidth_of_le (by decide)]
  exact BitVec.isLt _

/-- A key whose halves rotation leaves as they are has 16 equal subkeys, PC2 of the key. -/
theorem createSubkeys_of_fixed (c : Tables) {key : Key} (hl : rotl28 (leftKey key) = leftKey key)
    (hr : rotl28 (rightKey key) = rightKey key) :
    createSubkeys c key = List.replicate 16 (permute 48 c.pc2 (key.setWidth 64)) := by
  refine List.eq_replicate_iff.mpr ⟨length_createSubkeys c key, fun k hk => ?_⟩
  obtain ⟨r, -, rfl⟩ := mem_createSubkeys.mp hk
  rw [roundSubkey, Function.iterate_fixed hl, Function.iterate_fixed hr, leftKey_append_rightKey]

/-- Halves that two rotations leave as they are give the same subkey two rounds later. -/
theorem roundSubkey_add_two (c : Tables) {l r : KeyHalf} (hl : rotl28^[2] l = l) (hr : rotl28^[2] r = r) (i : Nat) :
    roundSubkey c l r (i + 2) = roundSubkey c l r i := by
  have hsplit : i + 2 + 1 = i + 1 + 2 := by omega
  rw [roundSubkey, hsplit, Function.iterate_add_apply rotl28 (i + 1) 2 l, hl,
    Function.iterate_add_apply rotl28 (i + 1) 2 r, hr, roundSubkey]

/-- Two rotations leave an alternating half as it is. -/
theorem rotl28_iterate_two_of_alternating {b : KeyHalf} (hb : b = 0xAAAAAAA ∨ b = 0x5555555) : rotl28^[2] b = b := by
  obtain rfl | rfl := hb
  · decide
  · decide

/-- Settles O15: a rotation moves every bit one place modulo 28, so 28 of them move it back. -/
theorem rotationByOneBit : Obligations.RotationByOneBit := by
  refine fun b => ⟨rotl28_eq_masked b, getLsbD_rotl28 b (k := 27) (by decide), fun k hk => ?_, rotl28_iterate_28 b⟩
  simpa [Nat.mod_eq_of_lt (show k + 1 < 28 by omega)] using getLsbD_rotl28 b (show k < 28 by omega)

/-- Settles O16: the halves before round r + 1 are those of the key after r rotations. -/
theorem scheduleRotatesThenCompresses : Obligations.ScheduleRotatesThenCompresses :=
  fun c key => ⟨length_createSubkeys c key, fun n => rotl28^[n] (leftKey key), fun n => rotl28^[n] (rightKey key),
    rfl, rfl, fun r hr => ⟨rotl28_iterate_succ r _, rotl28_iterate_succ r _, getElem?_createSubkeys c key hr⟩⟩

/-- Settles O17: narrow PC2 entries read 0; rotation leaves the halves 0 and 0xFFFFFFF as they are; two rotations leave
the alternating halves as they are. -/
theorem scheduleWidthAndCountLaws : Obligations.ScheduleWidthAndCountLaws := by
  refine fun cfg => ⟨fun key => ⟨length_createSubkeys _ key, fun k _ => k.isLt⟩, fun key j hj hentry k hk => ?_,
    ?_, createSubkeys_of_fixed _ (by decide) (by decide), fun key hl hr r hbound => ?_⟩
  · obtain ⟨i, -, rfl⟩ := mem_createSubkeys.mp hk
    exact getLsbD_roundSubkey_of_entry_le cfg.pc2_length _ _ i hj hentry
  · have hzero : (0 : Key).setWidth 64 = 0 := by decide
    rw [createSubkeys_of_fixed _ (by decide) (by decide), hzero, permute_zero cfg.pc2_length]
  · rw [getElem?_createSubkeys _ key (by omega), getElem?_createSubkeys _ key hbound, roundSubkey_add_two _
      (rotl28_iterate_two_of_alternating hl) (rotl28_iterate_two_of_alternating hr)]

end Sys2Proof.Machine
end

section
/-! PROOFS. Which S-box entry each nibble of `sboxSub` is (spec/42_round.md, R142), how a round is undone (R146), and
what narrow E and P entries make of the round (R150). -/

namespace Sys2Proof.Machine

/-- A value shifted into a word from below is its lowest field. -/
theorem extractLsb'_zero_shiftLeft_or {w d : Nat} (word : BitVec w) (field : BitVec d) (hd : d ≤ w) :
    (word <<< d ||| field.setWidth w).extractLsb' 0 d = field := by
  ext i hi
  simp [hi, show i < w by omega]

/-- Every other field of the word is d bits higher than before, but for the one shifted out at the top. -/
theorem extractLsb'_add_shiftLeft_or {w d n : Nat} (word : BitVec w) (field : BitVec d) (hn : n + d + d ≤ w) :
    (word <<< d ||| field.setWidth w).extractLsb' (n + d) d = word.extractLsb' n d := by
  apply BitVec.eq_of_getLsbD_eq
  intro i hi
  have hup : n + d + i < w ∧ ¬n + d + i < d ∧ n + d + i - d = n + i := by omega
  have hout : field.getLsbD (n + d + i) = false := field.getLsbD_of_ge _ (by omega)
  simp [hi, hup, hout, BitVec.getLsbD_eq_getElem (show n + i < w by omega)]

/-- Of at most 8 nibbles shifted in one after the other, the first one stands highest: none is shifted out. -/
theorem extractLsb'_foldl_nibbles (nibble : Nat → BitVec 4) {n k : Nat} (hn : n ≤ 8) (hk : k < n) :
    ((List.range n).foldl (fun (out : Half) g => (out <<< 4) ||| (nibble g).setWidth 32) 0).extractLsb'
      (4 * (n - 1 - k)) 4 = nibble k := by
  induction n with
  | zero => omega
  | succ n ih =>
    rw [List.range_succ, List.foldl_concat]
    obtain rfl | hbefore : k = n ∨ k < n := by omega
    · simpa using extractLsb'_zero_shiftLeft_or _ (nibble k) (by decide)
    · have hup : 4 * (n + 1 - 1 - k) = 4 * (n - 1 - k) + 4 := by omega
      rw [hup, extractLsb'_add_shiftLeft_or _ _ (by omega), ih (by omega) hbefore]

/-- Nibble g of the substitution is the entry that group g selects (R142). -/
theorem extractLsb'_sboxSub (c : Tables) (t : BitVec 48) {g : Nat} (hg : g < 8) :
    (sboxSub c t).extractLsb' (28 - 4 * g) 4 =
      sboxEntry c (g % 4) (sboxRow (sboxGroup t g)) (sboxCol (sboxGroup t g)) := by
  have hpos : 28 - 4 * g = 4 * (8 - 1 - g) := by omega
  rw [hpos]
  exact extractLsb'_foldl_nibbles _ le_rfl hg

/-- The row of group g is made of its outer bits, 47-6g and 42-6g (R142). -/
theorem sboxRow_sboxGroup (t : BitVec 48) {g : Nat} (hg : g < 8) :
    sboxRow (sboxGroup t g) = 2 * (t.getLsbD (47 - 6 * g)).toNat + (t.getLsbD (42 - 6 * g)).toNat := by
  have htop : 42 - 6 * g + 5 = 47 - 6 * g := by omega
  simp [-BitVec.getLsbD_eq_getElem, sboxRow, sboxGroup, htop]

/-- The column of group g is made of its four inner bits, from 46-6g down to 43-6g (R142). -/
theorem sboxCol_sboxGroup (t : BitVec 48) {g : Nat} (hg : g < 8) :
    sboxCol (sboxGroup t g) = (t.extractLsb' (43 - 6 * g) 4).toNat := by
  have hlow (i : Nat) : 42 - 6 * g + (1 + i) = 43 - 6 * g + i := by omega
  have hbits : (sboxGroup t g).extractLsb' 1 4 = t.extractLsb' (43 - 6 * g) 4 := by
    ext i hi
    simp [sboxGroup, hlow, show 1 + i < 6 by omega]
  rw [sboxCol, hbits]

theorem sboxRow_lt (grp : BitVec 6) : sboxRow grp < 4 := by
  have hhigh := Bool.toNat_le (grp.getLsbD 5)
  have hlow := Bool.toNat_le (grp.getLsbD 0)
  unfold sboxRow
  omega

theorem sboxCol_lt (grp : BitVec 6) : sboxCol grp < 16 := (grp.extractLsb' 1 4).isLt

/-- An accepted configuration has an entry at every box, row and column, and it is a 4-bit value (R40). -/
theorem exists_sboxEntry (cfg : Configuration) {b row col : Nat} (hb : b < 4) (hrow : row < 4) (hcol : col < 16) :
    ∃ box entries v, cfg.tables.sbox[b]? = some box ∧ box[row]? = some entries ∧ entries[col]? = some v ∧
      (sboxEntry cfg.tables b row col).toNat = v := by
  obtain ⟨hboxes, hshape⟩ := cfg.sbox_shape
  obtain ⟨box, hbox⟩ : ∃ box, cfg.tables.sbox[b]? = some box := ⟨_, List.getElem?_eq_getElem (by omega)⟩
  obtain ⟨hrows, hrowShape⟩ := hshape box (List.mem_of_getElem? hbox)
  obtain ⟨entries, hentries⟩ : ∃ entries, box[row]? = some entries := ⟨_, List.getElem?_eq_getElem (by omega)⟩
  obtain ⟨hcols, hvalues⟩ := hrowShape entries (List.mem_of_getElem? hentries)
  obtain ⟨v, hv⟩ : ∃ v, entries[col]? = some v := ⟨_, List.getElem?_eq_getElem (by omega)⟩
  have hle : v ≤ 15 := hvalues v (List.mem_of_getElem? hv)
  refine ⟨box, entries, v, hbox, hentries, hv, ?_⟩
  simp [sboxEntry, List.getD_eq_getElem?_getD, hbox, hentries, hv, show v < 16 by omega]

/-- Settles O20: each nibble is the entry its group selects, and an accepted configuration has that entry. -/
theorem sboxLooksUpEachGroup : Obligations.SboxLooksUpEachGroup := by
  intro cfg t g hg
  rw [← sboxRow_sboxGroup t hg, ← sboxCol_sboxGroup t hg, extractLsb'_sboxSub cfg.tables t hg]
  exact exists_sboxEntry cfg (Nat.mod_lt g (by decide)) (sboxRow_lt _) (sboxCol_lt _)

/-- The round function on its own output with the halves swapped gives back the halves, swapped (R146). -/
theorem feistelRound_swap (c : Tables) (L R : Half) (K : Subkey) :
    feistelRound c (feistelRound c L R K).2 (feistelRound c L R K).1 K = (R, L) := by
  simp only [feistelRound, BitVec.xor_assoc, BitVec.xor_self, BitVec.xor_zero]

/-- Settles O21: the second round XORs the same value of f onto the half that the first one XORed it onto. -/
theorem roundUndoneBySwappedRound : Obligations.RoundUndoneBySwappedRound := fun c L R K =>
  have hswap := feistelRound_swap c L R K
  ⟨hswap, rfl, (congrArg Prod.snd hswap).symm⟩

/-- An entry of at most 64 - v names a bit above a value of v bits, which reads 0 (R102). -/
theorem getLsbD_setWidth_of_entry_le {v entry : Nat} (value : BitVec v) (hv : v ≤ 64) (hentry : entry ≤ 64 - v) :
    (value.setWidth 64).getLsbD (64 - entry) = false := by
  rw [BitVec.getLsbD_setWidth, value.getLsbD_of_ge _ (by omega), Bool.and_false]

/-- A table reads a half-block only through its entries of at least 33 (R102). -/
theorem permute_half_congr {w : Nat} {table : List Nat} (hlen : table.length = w) {R R' : Half}
    (hnamed : ∀ e ∈ table, 33 ≤ e → R.getLsbD (64 - e) = R'.getLsbD (64 - e)) :
    permute w table (R.setWidth 64) = permute w table (R'.setWidth 64) := by
  apply permute_congr hlen
  intro e he
  obtain hnarrow | hwide : e ≤ 32 ∨ 33 ≤ e := by omega
  · rw [getLsbD_setWidth_of_entry_le R (by decide) hnarrow, getLsbD_setWidth_of_entry_le R' (by decide) hnarrow]
  · rw [BitVec.getLsbD_setWidth, BitVec.getLsbD_setWidth, hnamed e he hwide]

/-- With every P entry at most 32, f is 0 (R150, item 1). -/
theorem feistel_eq_zero_of_narrow_p {c : Tables} (hlen : c.p.length = 32) (hp : ∀ e ∈ c.p, e ≤ 32) (R : Half)
    (K : Subkey) : feistel c R K = 0 :=
  permute_setWidth_eq_zero hlen _ (by decide) hp

/-- With every P entry at most 32, the round only swaps its halves (R150, item 1). -/
theorem feistelRound_of_narrow_p {c : Tables} (hlen : c.p.length = 32) (hp : ∀ e ∈ c.p, e ≤ 32) (L R : Half)
    (K : Subkey) : feistelRound c L R K = (R, L) := by
  rw [feistelRound, feistel_eq_zero_of_narrow_p hlen hp, BitVec.ofNat_eq_ofNat, BitVec.xor_zero]

/-- f depends on the half only through its expansion (R140). -/
theorem feistel_congr {c : Tables} {R R' : Half}
    (h : permute 48 c.e (R.setWidth 64) = permute 48 c.e (R'.setWidth 64)) (K : Subkey) :
    feistel c R K = feistel c R' K := by
  rw [feistel, h, feistel]

/-- Where the expansion is 0, the subkey alone is substituted (R150, item 2). -/
theorem feistel_of_expansion_eq_zero {c : Tables} {R : Half} (h : permute 48 c.e (R.setWidth 64) = 0) (K : Subkey) :
    feistel c R K = permute 32 c.p ((sboxSub c K).setWidth 64) := by
  rw [feistel, h, BitVec.ofNat_eq_ofNat, BitVec.zero_xor]

/-- A P entry of at most 32 makes its output bit of f 0 (R150, item 3). -/
theorem getLsbD_feistel_of_entry_le {c : Tables} (hlen : c.p.length = 32) (R : Half) (K : Subkey) {j : Nat}
    (hj : j < c.p.length) (hentry : c.p[j] ≤ 32) : (feistel c R K).getLsbD (31 - j) = false := by
  have hpos : 31 - j = c.p.length - 1 - j := by omega
  rw [feistel, hpos, getLsbD_permute c.p _ hlen.le hj, getLsbD_setWidth_of_entry_le _ (by decide) hentry]

/-- Settles O22: entries of at most 32 read 0 in a half-block, in the expansion and in the output permutation. -/
theorem narrowTablesWeakenTheRound : Obligations.NarrowTablesWeakenTheRound := by
  refine fun cfg => ⟨fun hp L R K => ⟨?_, ?_⟩, fun he R K => ?_, fun R R' K hnamed => ?_, fun R K j hj hentry => ?_⟩
  · exact feistel_eq_zero_of_narrow_p cfg.p_length hp R K
  · exact feistelRound_of_narrow_p cfg.p_length hp L R K
  · have hzero := permute_setWidth_eq_zero cfg.e_length R (by decide) he
    exact ⟨hzero, feistel_of_expansion_eq_zero hzero K⟩
  · exact feistel_congr (permute_half_congr cfg.e_length hnamed) K
  · exact getLsbD_feistel_of_entry_le cfg.p_length R K hj hentry

end Sys2Proof.Machine
end

section
/-! PROOFS. What the block function computes (spec/43_driver.md, R170 to R175), why its two directions undo each other
(R176), and what a narrow P table (R178) and a palindromic schedule (R179) make of it. -/

namespace Sys2Proof.Machine

/-! ### FP and IP undo each other -/

/-- FP undoes IP (R41): composed, the two tables are the identity table. -/
theorem permute_fp_permute_ip (cfg : Configuration) (m : Word) :
    permute 64 cfg.tables.fp (permute 64 cfg.tables.ip m) = m := by
  have hcomposed : (cfg.tables.fp.map fun k => cfg.tables.ip.getD (k - 1) 0) = List.range' 1 64 := by
    apply List.ext_getElem
    · rw [List.length_map, cfg.fp_length, List.length_range']
    · intro j hj _
      rw [List.length_map] at hj
      have hinv := cfg.fp_inverts_ip j (hj.trans_eq cfg.fp_length)
      rw [List.getD_eq_getElem _ _ hj] at hinv
      rw [List.getElem_map, List.getD_eq_getElem?_getD, hinv, Option.getD_some, List.getElem_range']
      omega
  rw [permute_permute cfg.ip_length cfg.fp_length cfg.fp_entries, hcomposed, permute_range']

/-- IP undoes FP (R41): IP is injective, and so reaches every word. -/
theorem permute_ip_permute_fp (cfg : Configuration) (x : Word) :
    permute 64 cfg.tables.ip (permute 64 cfg.tables.fp x) = x := by
  have hleft : Function.LeftInverse (permute 64 cfg.tables.fp) (permute 64 cfg.tables.ip) := permute_fp_permute_ip cfg
  have hfinite : Finite Word := Finite.of_injective BitVec.toFin BitVec.toFin_injective
  exact hleft.rightInverse_of_surjective (Finite.surjective_of_injective hleft.injective) x

/-! ### The rounds of a schedule -/

theorem runRounds_append (c : Tables) (ks later : List Subkey) (h : Half × Half) :
    runRounds c (ks ++ later) h = runRounds c later (runRounds c ks h) := by
  induction ks generalizing h with
  | nil => rfl
  | cons k ks ih => exact ih _

/-- One round more is the round function, with the next subkey, of the rounds before it (R172). -/
theorem runRounds_take_succ (c : Tables) {ks : List Subkey} {r : Nat} {k : Subkey} (hk : ks[r]? = some k)
    (h : Half × Half) : runRounds c (ks.take (r + 1)) h =
      feistelRound c (runRounds c (ks.take r) h).1 (runRounds c (ks.take r) h).2 k := by
  rw [List.take_add_one, hk, runRounds_append]
  rfl

/-- The same rounds in reverse order, started from the swapped result, give back the halves they started from, swapped:
the last round is undone first (R146). -/
theorem runRounds_reverse_swap (c : Tables) (ks : List Subkey) (h : Half × Half) :
    runRounds c ks.reverse (runRounds c ks h).swap = h.swap := by
  induction ks generalizing h with
  | nil => rfl
  | cons k ks ih =>
    rw [List.reverse_cons, runRounds_append]
    exact (congrArg (runRounds c [k]) (ih _)).trans (feistelRound_swap c h.1 h.2 k)

/-- The first i rounds of the reversed schedule undo the last i rounds of the schedule (R176). -/
theorem runRounds_take_reverse_swap (c : Tables) (ks : List Subkey) (h : Half × Half) (i : Nat) :
    runRounds c (ks.reverse.take i) (runRounds c ks h).swap = (runRounds c (ks.take (ks.length - i)) h).swap := by
  have hsplit : runRounds c ks h = runRounds c (ks.drop (ks.length - i)) (runRounds c (ks.take (ks.length - i)) h) := by
    rw [← runRounds_append, List.take_append_drop]
  rw [hsplit, List.take_reverse, runRounds_reverse_swap]

/-- With every P entry at most 32, n rounds are n swaps, whatever the subkeys (R178). -/
theorem runRounds_of_narrow_p {c : Tables} (hlen : c.p.length = 32) (hp : ∀ e ∈ c.p, e ≤ 32) (ks : List Subkey)
    (h : Half × Half) : runRounds c ks h = Prod.swap^[ks.length] h := by
  induction ks generalizing h with
  | nil => rfl
  | cons k ks ih =>
    rw [runRounds, feistelRound_of_narrow_p hlen hp, ih]
    rfl

/-! ### The schedule of a direction -/

@[simp] theorem length_schedule (c : Tables) (key : Key) (encrypt : Bool) : (schedule c key encrypt).length = 16 := by
  cases encrypt
  · exact List.length_reverse.trans (length_createSubkeys c key)
  · exact length_createSubkeys c key

/-- The other direction uses the same subkeys in reverse order (R170). -/
theorem schedule_not (c : Tables) (key : Key) (encrypt : Bool) :
    schedule c key (!encrypt) = (schedule c key encrypt).reverse := by
  cases encrypt
  · exact (List.reverse_reverse _).symm
  · rfl

/-- Round r + 1 uses subkey r of `createSubkeys` to encrypt and subkey 15 - r to decrypt (R170, R172). -/
theorem getElem?_schedule (c : Tables) (key : Key) (encrypt : Bool) {r : Nat} (hr : r < 16) :
    (schedule c key encrypt)[r]? = (createSubkeys c key)[if encrypt then r else 15 - r]? := by
  cases encrypt
  · have hin : r < (createSubkeys c key).length := hr.trans_eq (length_createSubkeys c key).symm
    have hlast : (createSubkeys c key).length - 1 - r = 15 - r := by rw [length_createSubkeys]
    exact (List.getElem?_reverse hin).trans (by rw [hlast]; rfl)
  · rfl

/-! ### The block function -/

/-- Started on a finished block, the cipher is back at the halves after the last round, swapped (R171, R173). -/
theorem initialHalves_finalBlock (cfg : Configuration) (h : Half × Half) :
    initialHalves cfg.tables (finalBlock cfg.tables h) = h.swap := by
  unfold initialHalves finalBlock
  rw [permute_ip_permute_fp]
  exact Prod.ext BitVec.extractLsb'_append_eq_left BitVec.extractLsb'_append_eq_right

/-- With the swap of R173 undone and no round between, FP gives back the block that IP took apart. -/
theorem finalBlock_swap_initialHalves (cfg : Configuration) (m : Word) :
    finalBlock cfg.tables (initialHalves cfg.tables m).swap = m := by
  have hjoin (x : Word) : x.extractLsb' 32 32 ++ x.extractLsb' 0 32 = x :=
    (BitVec.extractLsb'_append_extractLsb'_eq_extractLsb' (Nat.zero_add 32).symm).trans BitVec.extractLsb'_eq_self
  exact (congrArg (permute 64 cfg.tables.fp) (hjoin _)).trans (permute_fp_permute_ip cfg m)

/-- Each direction undoes the other (R176). -/
theorem processBlock_not_processBlock (cfg : Configuration) (key : Key) (m : Word) (encrypt : Bool) :
    processBlock cfg.tables (processBlock cfg.tables m key encrypt) key (!encrypt) = m := by
  unfold processBlock
  rw [initialHalves_finalBlock, schedule_not, runRounds_reverse_swap, finalBlock_swap_initialHalves]

/-- A palindromic schedule is the same list in both directions (R179). -/
theorem processBlock_of_palindrome {c : Tables} {key : Key}
    (hpal : createSubkeys c key = (createSubkeys c key).reverse) (m : Word) :
    processBlock c m key true = processBlock c m key false := by
  have hsched : schedule c key true = schedule c key false := hpal
  rw [processBlock, hsched, processBlock]

/-- A key whose halves rotation leaves as they are has a palindromic schedule: its subkeys are all equal. -/
theorem createSubkeys_palindrome_of_fixed (c : Tables) {key : Key} (hl : rotl28 (leftKey key) = leftKey key)
    (hr : rotl28 (rightKey key) = rightKey key) : createSubkeys c key = (createSubkeys c key).reverse := by
  rw [createSubkeys_of_fixed c hl hr, List.reverse_replicate]

/-- The halves after the first r rounds of the block function (R171, R172). -/
def halvesAfter (c : Tables) (block : Word) (key : Key) (encrypt : Bool) (r : Nat) : Half × Half :=
  runRounds c ((schedule c key encrypt).take r) (initialHalves c block)

theorem halvesAfter_succ (c : Tables) (block : Word) (key : Key) (encrypt : Bool) {r : Nat} (hr : r < 16) :
    ∃ k, (createSubkeys c key)[if encrypt then r else 15 - r]? = some k ∧
      halvesAfter c block key encrypt (r + 1) =
        feistelRound c (halvesAfter c block key encrypt r).1 (halvesAfter c block key encrypt r).2 k := by
  obtain ⟨k, hk⟩ : ∃ k, (schedule c key encrypt)[r]? = some k :=
    ⟨_, List.getElem?_eq_getElem (hr.trans_eq (length_schedule c key encrypt).symm)⟩
  exact ⟨k, (getElem?_schedule c key encrypt hr).symm.trans hk, runRounds_take_succ c hk _⟩

theorem processBlock_eq_finalBlock_halvesAfter (c : Tables) (block : Word) (key : Key) (encrypt : Bool) :
    processBlock c block key encrypt = finalBlock c (halvesAfter c block key encrypt 16) := by
  rw [processBlock, halvesAfter, List.take_of_length_le (length_schedule c key encrypt).le]

/-- Settles O25: the halves after r rounds are those after the first r subkeys of the schedule. -/
theorem blockFunctionIsSixteenRounds : Obligations.BlockFunctionIsSixteenRounds :=
  fun c block key encrypt => ⟨fun r => (halvesAfter c block key encrypt r).1,
    fun r => (halvesAfter c block key encrypt r).2, rfl, rfl, fun _ hr => halvesAfter_succ c block key encrypt hr,
    processBlock_eq_finalBlock_halvesAfter c block key encrypt⟩

/-- Settles O26: the reversed schedule undoes the rounds one by one, and FP and IP undo each other. -/
theorem decryptionInvertsEncryption : Obligations.DecryptionInvertsEncryption := by
  refine ⟨fun cfg key m => ⟨processBlock_not_processBlock cfg key m true, processBlock_not_processBlock cfg key m false⟩,
    fun c key h i _ => ?_⟩
  rw [← length_createSubkeys c key]
  exact runRounds_take_reverse_swap c (createSubkeys c key) h i

/-- Settles O27: sixteen swaps restore the halves. -/
theorem narrowPTableIgnoresTheKey : Obligations.NarrowPTableIgnoresTheKey := by
  intro cfg hp m key encrypt
  rw [processBlock, runRounds_of_narrow_p cfg.p_length hp, length_schedule]
  rfl

/-- Settles O28: the reversed schedule is the schedule, so the inverse of encryption is encryption. -/
theorem palindromicSchedules : Obligations.PalindromicSchedules := by
  refine fun cfg => ⟨fun key hpal m => ⟨processBlock_of_palindrome hpal m, ?_⟩,
    createSubkeys_palindrome_of_fixed _ (by decide) (by decide),
    createSubkeys_palindrome_of_fixed _ (by decide) (by decide)⟩
  rw [processBlock_of_palindrome hpal (processBlock cfg.tables m key true)]
  exact processBlock_not_processBlock cfg key m true

/-- Settles O29: `process` is a map over the blocks. -/
theorem blocksAreIndependent : Obligations.BlocksAreIndependent := by
  refine fun c key encrypt => ⟨rfl, fun blocks => ⟨List.length_map _, fun j b hj => ?_⟩⟩
  rw [process, List.getElem?_map, hj, Option.map_some]

end Sys2Proof.Machine
end

section
/-! PROOFS. How a text is cut into padded blocks and put together again (spec/44_codec.md, R190 to R196), and the
exact round trip of the codec (R197). -/

namespace Sys2Proof.Machine

/-! ### Encoding -/

/-- The bytes that encoding appends to a text: none where its length is a multiple of 8, and otherwise what the last
segment lacks, each of that value (R190, R192). -/
def textPadding (text : List Byte) : List Byte :=
  List.replicate (if text.length % 8 = 0 then 0 else 8 - text.length % 8) (BitVec.ofNat 8 (8 - text.length % 8))

theorem textPadding_of_mod_eq_zero {text : List Byte} (h : text.length % 8 = 0) : textPadding text = [] := by
  rw [textPadding, if_pos h, List.replicate_zero]

theorem textPadding_of_mod_ne_zero {text : List Byte} (h : text.length % 8 ≠ 0) :
    textPadding text = List.replicate (8 - text.length % 8) (BitVec.ofNat 8 (8 - text.length % 8)) := by
  rw [textPadding, if_neg h]

theorem length_append_textPadding (text : List Byte) :
    (text ++ textPadding text).length = 8 * segmentCount text.length := by
  simp only [textPadding, segmentCount, List.length_append, List.length_replicate]
  split <;> omega

theorem length_textSegment (text : List Byte) (j : Nat) :
    (textSegment text j).length = min 8 (text.length - 8 * j) := by
  rw [textSegment, List.length_take, List.length_drop]

theorem getElem?_textSegment (text : List Byte) (j : Nat) {k : Nat} (hk : k < 8) :
    (textSegment text j)[k]? = text[8 * j + k]? := by
  rw [textSegment, List.getElem?_take_of_lt hk, List.getElem?_drop]

/-- A padded segment of the text is a segment of the padded text: only the last one lacks bytes, and it lacks as many
as the text does (R190). -/
theorem padSegment_textSegment {text : List Byte} {j : Nat} (hj : j < segmentCount text.length) :
    padSegment (textSegment text j) = textSegment (text ++ textPadding text) j := by
  have hstart : 8 * j < text.length := by
    unfold segmentCount at hj
    omega
  have hsplit : textSegment (text ++ textPadding text) j =
      textSegment text j ++ (textPadding text).take (8 - (text.length - 8 * j)) := by
    rw [textSegment, List.drop_append_of_le_length hstart.le, List.take_append, List.length_drop, textSegment]
  rw [hsplit, padSegment, paddingLength, length_textSegment]
  congr 1
  obtain hfull | hlast : 8 ≤ text.length - 8 * j ∨ text.length - 8 * j = text.length % 8 ∧ text.length % 8 ≠ 0 := by
    omega
  · rw [Nat.min_eq_left hfull, Nat.sub_eq_zero_of_le hfull]
    rfl
  · obtain ⟨hlen, hmod⟩ := hlast
    have hshort : text.length % 8 ≤ 8 := (Nat.mod_lt _ (by decide)).le
    rw [hlen, Nat.min_eq_right hshort, textPadding_of_mod_ne_zero hmod, List.take_replicate, Nat.min_self]

/-- The blocks of a text are the packed segments of the padded text (R191, R192). -/
theorem encodeText_eq_map (text : List Byte) :
    encodeText text = (List.range (segmentCount text.length)).map
      fun j => packBytes (textSegment (text ++ textPadding text) j) := by
  refine List.map_congr_left fun j hj => ?_
  rw [padSegment_textSegment (List.mem_range.mp hj)]

theorem length_encodeText (text : List Byte) : (encodeText text).length = (text.length + 7) / 8 := by
  rw [encodeText, List.length_map, List.length_range, segmentCount]

/-- Every segment of the padded text is full. -/
theorem length_textSegment_append_textPadding {text : List Byte} {j : Nat} (hj : j < segmentCount text.length) :
    (textSegment (text ++ textPadding text) j).length = 8 := by
  rw [length_textSegment, length_append_textPadding]
  omega

theorem getElem?_append_textPadding {text : List Byte} {i : Nat} (hi : i < 8 * segmentCount text.length) :
    (text ++ textPadding text)[i]? =
      if i < text.length then text[i]? else some (BitVec.ofNat 8 (8 - text.length % 8)) := by
  rw [← length_append_textPadding, List.length_append] at hi
  split
  next hin => exact List.getElem?_append_left hin
  next hout =>
    have hpad : i - text.length < (textPadding text).length := by omega
    rw [List.getElem?_append_right (by omega), List.getElem?_eq_getElem hpad]
    exact congrArg some (List.getElem_replicate ..)

/-- Settles O35: block j packs segment j of the padded text. -/
theorem encodePadsTheLastSegment : Obligations.EncodePadsTheLastSegment := by
  refine fun text => ⟨length_encodeText text, fun j v hv k hk => ?_⟩
  rw [encodeText_eq_map] at hv
  obtain ⟨hj, rfl⟩ := List.getElem?_eq_some_iff.mp hv
  rw [List.length_map, List.length_range] at hj
  have hfull := length_textSegment_append_textPadding hj
  rw [List.getElem_map, List.getElem_range, extractLsb'_packBytes_of_length_eq_eight hfull (hk.trans_eq hfull.symm),
    ← List.getElem?_eq_getElem, getElem?_textSegment _ _ hk, getElem?_append_textPadding (by omega)]

/-! ### Decoding -/

/-- Ciphertext mode keeps every byte of every block (R194). -/
theorem decodeText_true (blocks : List Word) : decodeText blocks true = blocks.flatMap unpackBlock := rfl

/-- Plaintext-recovery mode drops the zero bytes of what ciphertext mode gives, and then strips (R195). -/
theorem decodeText_false (blocks : List Word) :
    decodeText blocks false = stripPadding ((decodeText blocks true).filter (· ≠ 0)) :=
  congrArg stripPadding (List.filter_congr fun _ _ => Bool.eq_iff_iff.mpr (by simp))

/-- Byte 8j+k of the output is byte k of block j, since every block has 8 bytes (R194). -/
theorem getElem?_decodeText_true (blocks : List Word) (j : Nat) {k : Nat} (hk : k < 8) :
    (decodeText blocks true)[8 * j + k]? = blocks[j]?.bind fun v => (unpackBlock v)[k]? := by
  simp only [decodeText_true]
  induction blocks generalizing j with
  | nil => rfl
  | cons w blocks ih =>
    rw [List.flatMap_cons]
    cases j with
    | zero =>
      rw [Nat.mul_zero, Nat.zero_add, List.getElem?_append_left (hk.trans_eq (length_unpackBlock w).symm)]
      rfl
    | succ j =>
      have hrest : 8 * (j + 1) + k - (unpackBlock w).length = 8 * j + k := by
        rw [length_unpackBlock]
        omega
      rw [List.getElem?_append_right (by rw [length_unpackBlock]; omega), hrest, ih, List.getElem?_cons_succ]

/-- Settles O36: induction on the blocks. -/
theorem ciphertextDecodeKeepsEveryByte : Obligations.CiphertextDecodeKeepsEveryByte := by
  refine fun blocks => ⟨?_, fun j v hj k hk => ?_⟩
  · simp [decodeText_true, List.length_flatMap, Nat.mul_comm]
  · have hin : k < (unpackBlock v).length := hk.trans_eq (length_unpackBlock v).symm
    rw [getElem?_decodeText_true blocks j hk, hj, Option.bind_some, List.getElem?_eq_getElem hin, getElem_unpackBlock]

@[simp] theorem stripPadding_nil : stripPadding [] = [] := rfl

/-- A last byte of at most 8 says how many bytes go (R195). -/
theorem stripPadding_concat (front : List Byte) (p : Byte) :
    stripPadding (front ++ [p]) = if p.toNat ≤ 8
      then (front ++ [p]).take ((front ++ [p]).length - min p.toNat (front ++ [p]).length) else front ++ [p] := by
  rw [stripPadding, List.getLast?_concat]

/-- Settles O37: the stripped bytes by their last byte. -/
theorem plaintextDecodeDropsZerosAndStrips : Obligations.PlaintextDecodeDropsZerosAndStrips := by
  intro blocks nz
  have hdecode : decodeText blocks false = stripPadding nz := decodeText_false blocks
  rw [hdecode]
  refine ⟨fun hempty => ?_, fun front p hlast => ?_⟩
  · rw [hempty, stripPadding_nil]
  · rw [hlast, stripPadding_concat]
    exact ⟨fun hbig => if_neg hbig.not_ge, fun hsmall => if_pos hsmall⟩

/-! ### The round trip -/

/-- Stripping takes away bytes at the end, if any. -/
theorem stripPadding_sublist (out : List Byte) : (stripPadding out).Sublist out := by
  obtain rfl | ⟨front, p, rfl⟩ := List.eq_nil_or_concat' out
  · exact List.Sublist.refl _
  · rw [stripPadding_concat]
    split
    · exact List.take_sublist _ _
    · exact List.Sublist.refl _

/-- Where no byte is zero, stripping keeps a last byte only if it is above 8. -/
theorem stripPadding_eq_self_iff {out : List Byte} (hzero : (0 : Byte) ∉ out) (hne : out ≠ []) :
    stripPadding out = out ↔ ∃ p, out.getLast? = some p ∧ 8 < p.toNat := by
  obtain ⟨front, p, rfl⟩ := (List.eq_nil_or_concat' out).resolve_left hne
  have hp : p.toNat ≠ 0 := fun h => by
    have hp0 : p = 0 := BitVec.eq_of_toNat_eq h
    exact hzero (hp0 ▸ List.mem_concat_self)
  simp only [stripPadding_concat, List.getLast?_concat, Option.some.injEq, exists_eq_left']
  split
  next hsmall =>
    refine iff_of_false (fun h => ?_) hsmall.not_gt
    have hlen := congrArg List.length h
    simp only [List.length_take, List.length_append, List.length_singleton] at hlen
    omega
  next hbig => exact iff_of_true rfl (not_le.mp hbig)

/-- Stripping takes away exactly p bytes of value p (R195, R197). -/
theorem stripPadding_append_replicate (front : List Byte) {p : Nat} (hp : 0 < p ∧ p ≤ 8) :
    stripPadding (front ++ List.replicate p (BitVec.ofNat 8 p)) = front := by
  obtain ⟨hpos, hle⟩ := hp
  have hbyte : (BitVec.ofNat 8 p).toNat = p := Nat.mod_eq_of_lt (by omega)
  have hlast : List.replicate p (BitVec.ofNat 8 p) =
      List.replicate (p - 1) (BitVec.ofNat 8 p) ++ [BitVec.ofNat 8 p] := by
    rw [← List.replicate_succ', Nat.sub_add_cancel hpos]
  have hstrip := stripPadding_concat (front ++ List.replicate (p - 1) (BitVec.ofNat 8 p)) (BitVec.ofNat 8 p)
  rw [List.append_assoc, ← hlast, hbyte, if_pos hle] at hstrip
  rw [hstrip, List.take_left' (by simp)]

/-- The segments of a list, put together, are as much of it as they cover. -/
theorem flatMap_textSegment (text : List Byte) (m : Nat) :
    (List.range m).flatMap (textSegment text) = text.take (8 * m) := by
  induction m with
  | zero => rfl
  | succ m ih =>
    rw [List.range_succ, List.flatMap_append, ih, List.flatMap_singleton, Nat.mul_succ, List.take_add, textSegment]

/-- In ciphertext mode the padded text comes back (R197). -/
theorem decodeText_true_encodeText (text : List Byte) :
    decodeText (encodeText text) true = text ++ textPadding text := by
  have hunpack : ∀ j ∈ List.range (segmentCount text.length),
      unpackBlock (packBytes (textSegment (text ++ textPadding text) j)) = textSegment (text ++ textPadding text) j :=
    fun j hj => unpackBlock_packBytes (length_textSegment_append_textPadding (List.mem_range.mp hj))
  rw [decodeText_true, encodeText_eq_map, List.flatMap_map, List.flatMap_congr hunpack, flatMap_textSegment,
    ← length_append_textPadding, List.take_length]

/-- R197 in general: the padded text without its zero bytes, stripped. -/
theorem decodeText_false_encodeText (text : List Byte) :
    decodeText (encodeText text) false = stripPadding ((text ++ textPadding text).filter (· ≠ 0)) := by
  rw [decodeText_false, decodeText_true_encodeText]

/-- With padding, exactly the padding is stripped (R197). -/
theorem decodeText_false_encodeText_of_mod_ne_zero {text : List Byte} (h : text.length % 8 ≠ 0) :
    decodeText (encodeText text) false = text.filter (· ≠ 0) := by
  have hp : 0 < 8 - text.length % 8 ∧ 8 - text.length % 8 ≤ 8 := by omega
  have hbyte : BitVec.ofNat 8 (8 - text.length % 8) ≠ 0 := fun h0 => by
    have hval := congrArg BitVec.toNat h0
    rw [BitVec.toNat_ofNat, Nat.mod_eq_of_lt (by omega)] at hval
    exact hp.1.ne' hval
  rw [decodeText_false_encodeText, List.filter_append, textPadding_of_mod_ne_zero h,
    List.filter_replicate_of_pos (by simpa using hbyte), stripPadding_append_replicate _ hp]

/-- With no padding, the text itself is stripped (R197). -/
theorem decodeText_false_encodeText_of_mod_eq_zero {text : List Byte} (h : text.length % 8 = 0) :
    decodeText (encodeText text) false = stripPadding (text.filter (· ≠ 0)) := by
  rw [decodeText_false_encodeText, textPadding_of_mod_eq_zero h, List.append_nil]

theorem filter_ne_zero_eq_self_iff (text : List Byte) : text.filter (· ≠ 0) = text ↔ (0 : Byte) ∉ text := by
  simp only [List.filter_eq_self, decide_eq_true_eq]
  exact ⟨fun h h0 => h 0 h0 rfl, fun h b hb h0 => h (h0 ▸ hb)⟩

/-- Dropping zero bytes and stripping give a text back only if neither changes it: both only take bytes away. -/
theorem stripPadding_filter_eq_self_iff (text : List Byte) :
    stripPadding (text.filter (· ≠ 0)) = text ↔ (0 : Byte) ∉ text ∧ stripPadding text = text := by
  rw [← filter_ne_zero_eq_self_iff]
  constructor
  · intro h
    have hnz : text.filter (· ≠ 0) = text :=
      List.filter_sublist.antisymm (by simpa only [h] using stripPadding_sublist (text.filter (· ≠ 0)))
    exact ⟨hnz, by rwa [hnz] at h⟩
  · rintro ⟨hnz, hstrip⟩
    rw [hnz, hstrip]

/-- The texts that the codec gives back unchanged (R197). -/
theorem decodeText_false_encodeText_eq_self_iff (text : List Byte) :
    decodeText (encodeText text) false = text ↔
      (0 : Byte) ∉ text ∧ (text.length % 8 ≠ 0 ∨ text.length = 0 ∨ ∃ p, text.getLast? = some p ∧ 8 < p.toNat) := by
  by_cases hmod : text.length % 8 = 0
  · rw [decodeText_false_encodeText_of_mod_eq_zero hmod, stripPadding_filter_eq_self_iff]
    refine and_congr_right fun hzero => ?_
    obtain rfl | hne := eq_or_ne text []
    · simp
    · simp [stripPadding_eq_self_iff hzero hne, hmod, hne]
  · rw [decodeText_false_encodeText_of_mod_ne_zero hmod, filter_ne_zero_eq_self_iff]
    simp [hmod]

/-- Each direction undoes the other, block by block (R176). -/
theorem process_not_process (cfg : Configuration) (key : Key) (blocks : List Word) (encrypt : Bool) :
    process cfg.tables (process cfg.tables blocks key encrypt) key (!encrypt) = blocks := by
  simp [process, Function.comp_def, processBlock_not_processBlock]

/-- Settles O38: unpacking the blocks gives the padded text, of which dropping zero bytes and stripping leave what R197
says; the cipher's two directions undo each other. -/
theorem codecRoundTripLaw : Obligations.CodecRoundTripLaw := by
  refine fun t => ⟨decodeText_false_encodeText t, decodeText_false_encodeText_of_mod_ne_zero, fun hn => ?_,
    fun _ => decodeText_false_encodeText_of_mod_eq_zero, decodeText_false_encodeText_eq_self_iff t,
    decodeText_true_encodeText t, fun cfg key => ?_⟩
  · rw [List.length_eq_zero_iff.mp hn]
    rfl
  · exact congrArg (decodeText · false) (process_not_process cfg key (encodeText t) true)

end Sys2Proof.Machine
end

section
/-! PROOFS. What the turn at the head of the agenda does (R14, log 4), and how a host write of CMD starts a command
(spec/70_reset_and_hazards.md, R243). -/

namespace Sys2Proof.Machine

/-! ### The turn at the head of the agenda -/

theorem step_of_agenda_cons {s : State} {turn : Turn} {rest : List Turn} (h : s.agenda = turn :: rest) :
    step s = State.takeTurn { s with agenda := rest } turn := by
  rw [step, h]

theorem State.access_of_idle {s : State} (h : s.busy = false) (access : HostAccess) :
    s.access access = s.accessIdle access := by
  rw [State.access, h, if_neg Bool.false_ne_true]

/-- With BUSY = 0 a host turn leaves the agenda and has its effect on what remains: STATUS does not depend on the agenda. -/
theorem step_host_of_idle {s : State} {access : HostAccess} {rest : List Turn}
    (hagenda : s.agenda = .host access :: rest) (hidle : s.busy = false) :
    step s = State.accessIdle { s with agenda := rest } access :=
  (step_of_agenda_cons hagenda).trans (State.access_of_idle (s := { s with agenda := rest }) hidle access)

/-! ### The start of a command -/

/-- Bits 3:2 of STATUS are reserved and read 0, whatever its fields (R22). -/
theorem reserved_statusOf (busy ill : Bool) (cause : BitVec 4) : (statusOf busy ill cause).extractLsb' 2 2 = 0 := by
  revert busy ill cause
  decide

/-- Settles O44: the write is `startCommand`, whose STATUS is that of `setStarted`. -/
theorem cmdWriteStartsACommand : Obligations.CmdWriteStartsACommand := by
  intro s rest w hagenda hidle
  exact ⟨State.startCommand { s with agenda := rest } w, step_host_of_idle hagenda hidle, rfl,
    State.busy_setStarted _, State.ill_setStarted _, State.cause_setStarted _, reserved_statusOf true false 0⟩

end Sys2Proof.Machine
end

section
/-! PROOFS. The decoder and the encoder (spec/30_encoding.md, R70 to R75), and why a word that is no command's is
illegal (R76, R221). -/

namespace Sys2Proof

/-! ### The decoder against the encoder -/

/-- What the lookup answers stands in a row with the word looked up. -/
theorem mem_of_lookupWord_eq_some {rows : List (Word × Instr)} {w : Word} {i : Instr}
    (h : lookupWord rows w = some i) : (w, i) ∈ rows := by
  induction rows with
  | nil => cases h
  | cons row rows ih =>
    rw [lookupWord] at h
    split at h
    next hw =>
      cases hw
      cases h
      exact List.mem_cons_self
    next => exact List.mem_cons_of_mem _ (ih h)

/-- Each word of the opcode map is the word that its command's fields give (R70 to R75). -/
theorem opcodeTable_words : ∀ row ∈ opcodeTable, row.1 = encode row.2 := by decide

theorem decode_encode (i : Instr) : decode (encode i) = .ok i := by
  cases i <;> rfl

theorem decode_eq_ok_iff (w : Word) (i : Instr) : decode w = .ok i ↔ w = encode i := by
  constructor
  · intro h
    unfold decode at h
    split at h
    next hlookup =>
      cases h
      exact opcodeTable_words _ (mem_of_lookupWord_eq_some hlookup)
    next => cases h
  · rintro rfl
    exact decode_encode i

/-- Settles O2: a decoded word stands in the opcode map, whose words are the encodings. -/
theorem decodeInvertsEncode : Obligations.DecodeInvertsEncode := decode_eq_ok_iff

/-- Settles O1: each listed word is its command's encoding. -/
theorem listedWordsDecode : Obligations.ListedWordsDecode :=
  ⟨decode_encode .permIp, decode_encode .permFp, decode_encode .permE, decode_encode .permP, decode_encode .permPc2,
    decode_encode .ksched, decode_encode .sbox, decode_encode .round, decode_encode .cryptDec,
    decode_encode .cryptEnc, decode_encode .procDec, decode_encode .procEnc, decode_encode .encode,
    decode_encode .decodePt, decode_encode .decodeCt⟩

/-! ### Legal words by their fields -/

theorem wellFormed_encode (i : Instr) : CommandWord.wellFormed (encode i) = true :=
  match i with
  | .permIp => Laws.LegalWord.permIp
  | .permFp => Laws.LegalWord.permFp
  | .permE => Laws.LegalWord.permE
  | .permP => Laws.LegalWord.permP
  | .permPc2 => Laws.LegalWord.permPc2
  | .ksched => Laws.LegalWord.ksched
  | .sbox => Laws.LegalWord.sbox
  | .round => Laws.LegalWord.round
  | .cryptDec => Laws.LegalWord.cryptDec
  | .cryptEnc => Laws.LegalWord.cryptEnc
  | .procDec => Laws.LegalWord.procDec
  | .procEnc => Laws.LegalWord.procEnc
  | .encode => Laws.LegalWord.encode
  | .decodePt => Laws.LegalWord.decodePt
  | .decodeCt => Laws.LegalWord.decodeCt

/-- The checks of R71 to R73 and R76, field by field. -/
theorem CommandWord.wellFormed_iff (w : Word) : wellFormed w = true ↔
    (1 ≤ op w ∧ op w ≤ 8) ∧ (op w = 1 → sel w ≤ 4) ∧ (op w ≠ 1 → sel w = 0) ∧
    (d w = 0 ∨ op w = 5 ∨ op w = 6 ∨ op w = 8) ∧ rsv w = 0 := by
  by_cases h : op w = 1
  · simp [wellFormed, opOk, selOk, dOk, rsvOk, h, and_assoc]
  · simp [wellFormed, opOk, selOk, dOk, rsvOk, h, and_assoc, or_assoc]

/-- The four fields are the whole word (R70). -/
theorem CommandWord.toNat_eq_fields (w : Word) : w.toNat = op w + 16 * sel w + 256 * d w + 512 * rsv w := by
  unfold op sel d rsv
  omega

/-- The legal words are the 15 of the opcode map. -/
theorem exists_encode_of_wellFormed {w : Word} (h : CommandWord.wellFormed w = true) : ∃ i, w = encode i := by
  obtain ⟨⟨hlow, hhigh⟩, hsel, hsel0, hd, hrsv⟩ := (CommandWord.wellFormed_iff w).mp h
  have hw := CommandWord.toNat_eq_fields w
  have hd2 : CommandWord.d w < 2 := Nat.mod_lt _ (by decide)
  have hrow : ∃ row ∈ opcodeTable, row.1.toNat = w.toNat := by
    simp only [opcodeTable, List.mem_cons, List.not_mem_nil, or_false, exists_eq_or_imp, exists_eq_left]
    simp only [BitVec.reduceToNat]
    omega
  obtain ⟨row, hmem, hnat⟩ := hrow
  exact ⟨row.2, (BitVec.eq_of_toNat_eq hnat).symm.trans (opcodeTable_words row hmem)⟩

theorem exists_decode_eq_ok_iff (w : Word) : (∃ i, decode w = .ok i) ↔ CommandWord.wellFormed w = true := by
  simp only [decode_eq_ok_iff]
  constructor
  · rintro ⟨i, rfl⟩
    exact wellFormed_encode i
  · exact exists_encode_of_wellFormed

/-! ### The cause of an illegal word -/

/-- A rejected word gets the cause that OP decides (R76, R221). -/
theorem decode_eq_error_iff (w : Word) (c : Cause) :
    decode w = .error c ↔ ¬CommandWord.wellFormed w = true ∧ illegalCause w = c := by
  rw [← exists_decode_eq_ok_iff]
  unfold decode
  split <;> simp

theorem illegalCause_eq (w : Word) : illegalCause w =
    if CommandWord.op w = 0 ∨ 9 ≤ CommandWord.op w then .reservedOperation else .reservedField := by
  have hop : (w.extractLsb' 0 4).toNat = CommandWord.op w := by simp [CommandWord.op]
  have hzero : w.extractLsb' 0 4 = 0 ↔ CommandWord.op w = 0 := by rw [← hop]; exact BitVec.toNat_inj.symm
  simp only [illegalCause, hop, hzero]

/-- OP alone says whether the cause is a reserved operation (R76: it is checked first). -/
theorem illegalCause_eq_reservedOperation_iff (w : Word) :
    illegalCause w = .reservedOperation ↔ CommandWord.op w = 0 ∨ 9 ≤ CommandWord.op w := by
  rw [illegalCause_eq]
  split
  next hop => exact iff_of_true rfl hop
  next hop => exact iff_of_false (by decide) hop

theorem illegalCause_eq_reservedField_iff (w : Word) :
    illegalCause w = .reservedField ↔ 1 ≤ CommandWord.op w ∧ CommandWord.op w ≤ 8 := by
  rw [illegalCause_eq]
  split
  next hop => exact iff_of_false (by decide) (by omega)
  next hop => exact iff_of_true rfl (by omega)

/-- Settles O3: the legal words are those of the opcode map, and OP decides the cause of any other. -/
theorem illegalWordsAndTheirCauses : Obligations.IllegalWordsAndTheirCauses := by
  intro w
  refine ⟨?_, ?_, exists_decode_eq_ok_iff w⟩
  · rw [decode_eq_error_iff, CommandWord.wellFormed_iff, illegalCause_eq_reservedOperation_iff]
    omega
  · rw [decode_eq_error_iff, CommandWord.wellFormed_iff, illegalCause_eq_reservedField_iff]
    omega

end Sys2Proof
end

section
/-! PROOFS. What a command (spec/20_memory.md, R57) and what a turn (spec/00_scope.md, R14) can do to the state, said
once, and what follows for every step: the configuration stays (R40), and the invariant is kept. -/

namespace Sys2Proof.Machine

/-! ### The effect of a command -/

/-- The commands whose result goes to Y (R27). -/
def yCommands : List Instr := [.permIp, .permFp, .permE, .permP, .permPc2, .sbox, .round, .cryptEnc, .cryptDec]

/-- Everything that a completed command can have done (R57, R222), by what it writes. -/
inductive CommandEffect (s : State) : Instr → State → Prop
  /-- PERM.*, SBOX, ROUND and CRYPT.* write Y. -/
  | setsY (i : Instr) (hi : i ∈ yCommands) (v : Word) : CommandEffect s i (s.setY v)
  /-- KSCHED writes SK. -/
  | setsSk (ks : List Subkey) : CommandEffect s .ksched (s.setSk ks)
  /-- PROC.* write BLK[0..BLEN-1]. -/
  | writesBlk (i : Instr) (hi : i ∈ [Instr.procEnc, .procDec]) (blocks : List Word)
      (hlen : blocks.length = s.blen.toNat) (hcap : blocks.length ≤ s.blkCap) :
      CommandEffect s i (s.writeBlkFrom 0 blocks)
  /-- ENCODE writes BLK[0..ceil(TLEN/8)-1] and BLEN. -/
  | writesBlkAndBlen (blocks : List Word) (hlen : blocks.length = (s.tlen.toNat + 7) / 8)
      (hcap : blocks.length ≤ s.blkCap) :
      CommandEffect s .encode { s.writeBlkFrom 0 blocks with blen := BitVec.ofNat 64 blocks.length }
  /-- DECODE.* write TEXT[0..n-1] and TLEN. -/
  | writesTextAndTlen (i : Instr) (hi : i ∈ [Instr.decodePt, .decodeCt]) (bytes : List Byte)
      (hlen : bytes.length ≤ 8 * s.blen.toNat) (hcap : bytes.length ≤ s.textCap) :
      CommandEffect s i { s.writeTextFrom 0 bytes with tlen := textLength bytes.length }
  /-- A length out of range is rejected. -/
  | rejected (i : Instr) (hlength : s.lengthOk i = false) : CommandEffect s i (s.raiseIllegal .lengthOutOfRange)

theorem State.length_of_blkOperand {s : State} {blocks : List Word} (h : s.blkOperand = some blocks) :
    blocks.length = s.blen.toNat := (s.readBlkFrom_eq_some.mp h).1

theorem State.length_of_textOperand {s : State} {text : List Byte} (h : s.textOperand = some text) :
    text.length = s.tlen.toNat := (s.readTextFrom_eq_some.mp h).1

@[simp] theorem length_process (c : Tables) (blocks : List Word) (key : Key) (encrypt : Bool) :
    (process c blocks key encrypt).length = blocks.length := List.length_map _

theorem length_decodeText_true (blocks : List Word) : (decodeText blocks true).length = 8 * blocks.length :=
  (ciphertextDecodeKeepsEveryByte blocks).1

/-- Decoding gives at most 8 bytes a block: plaintext recovery only takes bytes away (R195). -/
theorem length_decodeText_le (blocks : List Word) (ciphertextMode : Bool) :
    (decodeText blocks ciphertextMode).length ≤ 8 * blocks.length := by
  rw [← length_decodeText_true]
  cases ciphertextMode
  · rw [decodeText_false]
    exact ((stripPadding_sublist _).trans List.filter_sublist).length_le
  · exact le_rfl

/-- PROC.* and DECODE.* check BLEN (R221 cause 3). -/
theorem State.lengthOk_eq_false_of_blen {s : State} (h : s.blkCap < s.blen.toNat) {i : Instr}
    (hi : i ∈ [Instr.procEnc, .procDec, .decodePt, .decodeCt]) : s.lengthOk i = false := by
  have hcheck : decide (s.blen.toNat ≤ s.blkCap) = false := decide_eq_false h.not_ge
  fin_cases hi <;> exact hcheck

/-- ENCODE checks TLEN (R221 cause 3). -/
theorem State.lengthOk_encode_eq_false {s : State} (h : s.textCap < s.tlen.toNat) : s.lengthOk .encode = false :=
  decide_eq_false h.not_ge

theorem State.proc_effect {s t : State} {i : Instr} {encrypt : Bool} (hi : i ∈ [Instr.procEnc, .procDec])
    (h : s.proc encrypt = .next t) : CommandEffect s i t := by
  obtain ⟨hlong, rfl⟩ | ⟨hcap, blocks, hblocks, rfl⟩ := State.proc_next h
  · exact .rejected i (State.lengthOk_eq_false_of_blen hlong (List.mem_append_left [Instr.decodePt, .decodeCt] hi))
  · have hlen := State.length_of_blkOperand hblocks
    exact .writesBlk i hi _ (by rw [length_process, hlen]) (by rwa [length_process, hlen])

theorem execEncode_effect {s t : State} (h : execEncode s = .next t) : CommandEffect s .encode t := by
  obtain ⟨hlong, rfl⟩ | ⟨hcap, text, htext, rfl⟩ := execEncode_next h
  · exact .rejected .encode (State.lengthOk_encode_eq_false hlong)
  · have hlen : (encodeText text).length = (s.tlen.toNat + 7) / 8 := by
      rw [length_encodeText, State.length_of_textOperand htext]
    rw [State.textCap_eq] at hcap
    exact .writesBlkAndBlen _ hlen (by omega)

theorem State.decodeBlk_effect {s t : State} {i : Instr} {ciphertextMode : Bool}
    (hi : i ∈ [Instr.decodePt, .decodeCt]) (h : s.decodeBlk ciphertextMode = .next t) : CommandEffect s i t := by
  obtain ⟨hlong, rfl⟩ | ⟨hcap, blocks, hblocks, rfl⟩ := State.decodeBlk_next h
  · exact .rejected i (State.lengthOk_eq_false_of_blen hlong (List.mem_append_right [Instr.procEnc, .procDec] hi))
  · have hlen := length_decodeText_le blocks ciphertextMode
    rw [State.length_of_blkOperand hblocks] at hlen
    exact .writesTextAndTlen i hi _ hlen (hlen.trans (by rw [State.textCap_eq]; omega))

/-- Every next state of a command is one of the effects above. -/
theorem exec_effect {i : Instr} {s t : State} (h : exec i s = .next t) : CommandEffect s i t := by
  cases i with
  | permIp | permFp | permE | permP | permPc2 | sbox | round | cryptDec | cryptEnc =>
    cases h
    exact .setsY _ (by decide) _
  | ksched =>
    cases h
    exact .setsSk _
  | procDec | procEnc => exact State.proc_effect (by decide) h
  | encode => exact execEncode_effect h
  | decodePt | decodeCt => exact State.decodeBlk_effect (by decide) h

/-! ### The effect of a turn -/

/-- Everything that a turn can have done: to nothing, to the engine by a command, or by a host access or a reset. -/
inductive TurnEffect (s : State) : State → Prop
  | unchanged : TurnEffect s s
  | command {i : Instr} {u : State} (h : CommandEffect s i u) : TurnEffect s u.complete
  | illegalWord (c : Cause) : TurnEffect s (s.raiseIllegal c).complete
  | writeReg (i : Nat) (v : Word) : TurnEffect s (s.writeReg i v)
  | writeText (i : Nat) (v : Byte) : TurnEffect s (s.writeText i v)
  | writeBlk (j : Nat) (v : Word) : TurnEffect s (s.writeBlk j v)
  | reply (v : Word) : TurnEffect s (s.reply v)
  | replyFree (mask : Word) : TurnEffect s (s.replyFree mask)
  | reset : TurnEffect s s.applyReset

theorem State.engineTurn_effect {s t : State} (h : s.engineTurn = .next t) : TurnEffect s t := by
  unfold State.engineTurn State.runCommand at h
  split at h
  next hbusy =>
    split at h
    next i hdecode =>
      cases hexec : exec i s with
      | next u =>
        rw [hexec] at h
        cases h
        exact .command (exec_effect hexec)
      | fault f => rw [hexec] at h; cases h
      | refused r => rw [hexec] at h; cases h
    next c hdecode =>
      cases h
      exact .illegalWord c
  next hidle =>
    cases h
    exact .unchanged

theorem State.replyElement_effect {s t : State} {v : Option Word} (h : s.replyElement v = .next t) :
    TurnEffect s t := by
  cases v with
  | none => cases h
  | some v =>
    cases h
    exact .reply v

theorem State.accessIdle_effect {s t : State} {access : HostAccess} (h : s.accessIdle access = .next t) :
    TurnEffect s t := by
  cases access with
  | writeReg i v =>
    cases h
    exact .writeReg i v
  | readReg i =>
    cases h
    exact .reply _
  | writeText i v =>
    cases h
    exact .writeText i v
  | readText i => exact State.replyElement_effect h
  | writeBlk j v =>
    cases h
    exact .writeBlk j v
  | readBlk j => exact State.replyElement_effect h

theorem State.accessBusy_effect {s t : State} {access : HostAccess} (h : s.accessBusy access = .next t) :
    TurnEffect s t := by
  cases access with
  | writeReg _ _ | writeText _ _ | writeBlk _ _ =>
    cases h
    exact .unchanged
  | readReg _ | readText _ | readBlk _ =>
    unfold State.accessBusy at h
    dsimp only at h
    split at h <;> cases h
    · exact .replyFree _
    · exact .reply _

theorem State.takeTurn_effect {s t : State} {turn : Turn} (h : s.takeTurn turn = .next t) : TurnEffect s t := by
  cases turn with
  | host access =>
    change s.access access = .next t at h
    unfold State.access at h
    split at h
    · exact State.accessBusy_effect h
    · exact State.accessIdle_effect h
  | engine => exact State.engineTurn_effect h
  | reset =>
    cases h
    exact .reset

/-- A step takes a turn off the agenda, if there is one, and has the effect of a turn on what remains. -/
theorem step_effect {s t : State} (h : step s = .next t) : ∃ rest, TurnEffect { s with agenda := rest } t := by
  cases hagenda : s.agenda with
  | nil =>
    rw [step, hagenda] at h
    exact ⟨s.agenda, State.engineTurn_effect h⟩
  | cons turn rest =>
    rw [step_of_agenda_cons hagenda] at h
    exact ⟨rest, State.takeTurn_effect h⟩

/-! ### The configuration -/

section fields
variable (s : State)

@[simp] theorem State.writeReg_cfg (i : Nat) (v : Word) : (s.writeReg i v).cfg = s.cfg := by
  unfold State.writeReg
  split <;> rfl

@[simp] theorem State.writeBlkFrom_cfg (start : Nat) (vs : List Word) : (s.writeBlkFrom start vs).cfg = s.cfg := by
  rw [s.writeBlkFrom_eq]

@[simp] theorem State.writeTextFrom_cfg (start : Nat) (vs : List Byte) : (s.writeTextFrom start vs).cfg = s.cfg := by
  rw [s.writeTextFrom_eq]

end fields

theorem CommandEffect.cfg_eq {s t : State} {i : Instr} (h : CommandEffect s i t) : t.cfg = s.cfg := by
  cases h with
  | setsY | setsSk | rejected => rfl
  | writesBlk _ _ blocks => exact s.writeBlkFrom_cfg 0 blocks
  | writesBlkAndBlen blocks => exact s.writeBlkFrom_cfg 0 blocks
  | writesTextAndTlen _ _ bytes => exact s.writeTextFrom_cfg 0 bytes

theorem TurnEffect.cfg_eq {s t : State} (h : TurnEffect s t) : t.cfg = s.cfg := by
  cases h with
  | unchanged | illegalWord | reply | replyFree | reset => rfl
  | command h => exact h.cfg_eq
  | writeReg i v => exact s.writeReg_cfg i v
  | writeText i v => exact s.writeText_cfg i v
  | writeBlk j v => exact s.writeBlk_cfg j v

/-- Settles O51: no effect of a turn changes the configuration. -/
theorem stepKeepsTheConfiguration : Obligations.StepKeepsTheConfiguration := by
  intro s t h
  obtain ⟨rest, heffect⟩ := step_effect h
  exact heffect.cfg_eq

/-! ### A legal STATUS -/

/-- The conditions of R22 on the fields of STATUS. -/
theorem State.legalStatus_iff (s : State) : s.legalStatus = true ↔
    s.status.extractLsb' 2 2 = 0 ∧ (s.ill = false → s.cause = 0) ∧
    (s.ill = true → 1 ≤ s.cause.toNat ∧ s.cause.toNat ≤ 3) ∧ (s.busy = true → s.ill = false) := by
  cases hill : s.ill <;> cases hbusy : s.busy <;> simp [State.legalStatus, hill, hbusy]

theorem State.legalStatus_reset : State.reset.legalStatus = true := rfl

theorem State.legalStatus_setStarted (s : State) : s.setStarted.legalStatus = true := by
  simp [State.legalStatus_iff, reserved_statusOf]

theorem State.legalStatus_setRejected (s : State) (c : Cause) : (s.setRejected c).legalStatus = true := by
  cases c <;> simp [State.legalStatus_iff, reserved_statusOf, causeCode]

theorem State.legalStatus_clearBusy {s : State} (h : s.legalStatus = true) : s.clearBusy.legalStatus = true := by
  obtain ⟨hreserved, hcause0, hcause, -⟩ := s.legalStatus_iff.mp h
  have hbits : s.clearBusy.status.extractLsb' 2 2 = s.status.extractLsb' 2 2 := by
    rw [State.clearBusy_status]
    generalize s.status = v
    revert v
    decide
  rw [State.legalStatus_iff, hbits, State.ill_clearBusy, State.cause_clearBusy, State.busy_clearBusy]
  exact ⟨hreserved, hcause0, hcause, fun h => nomatch h⟩

theorem CommandEffect.legalStatus {s t : State} {i : Instr} (h : CommandEffect s i t) (hs : s.legalStatus = true) :
    t.legalStatus = true := by
  cases h with
  | setsY | setsSk => exact hs
  | writesBlk _ _ blocks => rwa [s.writeBlkFrom_eq]
  | writesBlkAndBlen blocks => rwa [s.writeBlkFrom_eq]
  | writesTextAndTlen _ _ bytes => rwa [s.writeTextFrom_eq]
  | rejected => exact s.legalStatus_setRejected _

theorem State.legalStatus_writeReg {s : State} (i : Nat) (v : Word) (h : s.legalStatus = true) :
    (s.writeReg i v).legalStatus = true := by
  unfold State.writeReg
  split
  · exact State.legalStatus_setStarted _
  all_goals exact h

theorem TurnEffect.legalStatus {s t : State} (h : TurnEffect s t) (hs : s.legalStatus = true) :
    t.legalStatus = true := by
  cases h with
  | unchanged | reply | replyFree => exact hs
  | command h => exact State.legalStatus_clearBusy (h.legalStatus hs)
  | illegalWord c => exact State.legalStatus_clearBusy (s.legalStatus_setRejected c)
  | writeReg i v => exact State.legalStatus_writeReg i v hs
  | writeText i v => rwa [s.writeText_eq]
  | writeBlk j v => rwa [s.writeBlk_eq]
  | reset => exact State.legalStatus_reset

/-! ### The buffers -/

theorem CommandEffect.buffersOk {s t : State} {i : Instr} (h : CommandEffect s i t) (hs : BuffersOk s) :
    BuffersOk t := by
  cases h with
  | setsY | setsSk | rejected => exact hs
  | writesBlk _ _ blocks => exact State.writeBlkFrom_buffersOk 0 blocks hs
  | writesBlkAndBlen blocks => exact State.writeBlkFrom_buffersOk 0 blocks hs
  | writesTextAndTlen _ _ bytes => exact State.writeTextFrom_buffersOk 0 bytes hs

theorem State.writeReg_buffersOk {s : State} (i : Nat) (v : Word) (h : BuffersOk s) : BuffersOk (s.writeReg i v) := by
  unfold State.writeReg
  split <;> exact h

theorem TurnEffect.buffersOk {s t : State} (h : TurnEffect s t) (hs : BuffersOk s) : BuffersOk t := by
  cases h with
  | unchanged | illegalWord | reply | replyFree => exact hs
  | command h => exact h.buffersOk hs
  | writeReg i v => exact State.writeReg_buffersOk i v hs
  | writeText i v => exact State.writeText_buffersOk i v hs
  | writeBlk j v => exact State.writeBlk_buffersOk j v hs
  | reset => exact ⟨rfl, rfl, rfl, rfl⟩

/-! ### The invariant -/

theorem engineInv_iff (s : State) : EngineInv s ↔ s.legalStatus = true ∧ BuffersOk s :=
  ⟨fun ⟨h, h1, h2, h3, h4⟩ => ⟨h, h1, h2, h3, h4⟩, fun ⟨h, h1, h2, h3, h4⟩ => ⟨h, h1, h2, h3, h4⟩⟩

/-- Settles O49: every effect of a turn keeps STATUS legal and the buffers canonical and inside their capacity. -/
theorem stepKeepsTheInvariant : Obligations.StepKeepsTheInvariant := by
  intro s t hinv hstep
  obtain ⟨rest, heffect⟩ := step_effect hstep
  obtain ⟨hlegal, hbuffers⟩ := (engineInv_iff s).mp hinv
  exact (engineInv_iff t).mpr ⟨heffect.legalStatus hlegal, heffect.buffersOk hbuffers⟩

/-- Settles O50: STATUS is 0 and nothing is listed in the buffers. -/
theorem resetMeetsTheInvariant : Obligations.ResetMeetsTheInvariant :=
  (engineInv_iff State.reset).mpr ⟨State.legalStatus_reset, State.reset_buffersOk⟩

/-! ### The write set of each command -/

theorem State.raiseIllegal_lengthOutOfRange (s : State) :
    s.raiseIllegal .lengthOutOfRange = { s with status := 0x32 } := rfl

theorem not_mem_decode_of_mem_proc : ∀ i ∈ [Instr.procEnc, .procDec], i ∉ [Instr.decodePt, .decodeCt] := by decide

/-- Settles O52: each effect writes what its command may write. -/
theorem commandsWriteOnlyTheirWriteSet : Obligations.CommandsWriteOnlyTheirWriteSet := by
  intro i s t h
  cases exec_effect h with
  | setsY _ hi v =>
    exact ⟨⟨rfl, rfl, rfl, rfl⟩, ⟨rfl, rfl, rfl, rfl⟩, fun hn => absurd hi hn, fun _ => rfl, fun _ => rfl,
      fun _ => rfl, fun _ _ => rfl, fun _ _ _ => rfl, fun _ _ _ => rfl, fun _ _ => rfl, fun _ _ _ => rfl,
      fun hne => absurd rfl hne⟩
  | setsSk ks =>
    exact ⟨⟨rfl, rfl, rfl, rfl⟩, ⟨rfl, rfl, rfl, rfl⟩, fun _ => rfl, fun hn => absurd rfl hn, fun _ => rfl,
      fun _ => rfl, fun _ _ => rfl, fun _ _ _ => rfl, fun _ _ _ => rfl, fun _ _ => rfl, fun _ _ _ => rfl,
      fun hne => absurd rfl hne⟩
  | writesBlk _ hi blocks hlen hcap =>
    obtain ⟨hhost, hstatus, htlen, hblen, hy, hsk, htext, hblk, houtside, -⟩ := s.writeBlkFrom_frame blocks hcap
    rw [hlen] at hblk
    have hwrites : [Instr.procEnc, .procDec] ⊆ [.procEnc, .procDec, .encode] := by decide
    have hencode : Instr.encode ∉ [Instr.procEnc, .procDec] := by decide
    exact ⟨hhost, houtside, fun _ => hy, fun _ => hsk, fun _ => hblen, fun _ => htlen,
      fun hn => absurd (hwrites hi) hn, fun _ => hblk, fun he => absurd (he ▸ hi) hencode, fun _ => htext,
      fun hd => absurd hd (not_mem_decode_of_mem_proc i hi), fun hne => absurd hstatus hne⟩
  | writesBlkAndBlen blocks hlen hcap =>
    obtain ⟨hhost, hstatus, htlen, hy, hsk, htext, hblk, houtside, -⟩ :=
      s.writeBlkFrom_setBlen_frame blocks (BitVec.ofNat 64 blocks.length) hcap
    rw [hlen] at hblk
    exact ⟨hhost, houtside, fun _ => hy, fun _ => hsk, fun hn => absurd rfl hn, fun _ => htlen,
      fun hn => absurd (by decide) hn, fun hp => absurd hp (by decide), fun _ => hblk, fun _ => htext,
      fun hd => absurd hd (by decide), fun hne => absurd hstatus hne⟩
  | writesTextAndTlen _ hi bytes hlen hcap => 
    obtain ⟨hhost, hstatus, hblen, hy, hsk, htext, hblk, houtside, -⟩ :=
      s.writeTextFrom_setTlen_frame bytes (textLength bytes.length) hcap
    have hencode : Instr.encode ∉ [Instr.decodePt, .decodeCt] := by decide
    refine ⟨hhost, houtside, fun _ => hy, fun _ => hsk, fun _ => hblen, fun hn => absurd hi hn, fun _ => hblk,
      fun hp => absurd hi (not_mem_decode_of_mem_proc i hp), fun he => absurd (he ▸ hi) hencode,
      fun hn => absurd hi hn, fun _ k hk => htext k ?_, fun hne => absurd hstatus hne⟩
    split at hk
    next hfits => exact (textLength_toNat (hlen.trans_lt hfits)).ge.trans hk
    next => exact hlen.trans hk
  | rejected => 
    exact ⟨⟨rfl, rfl, rfl, rfl⟩, ⟨rfl, rfl, rfl, rfl⟩, fun _ => rfl, fun _ => rfl, fun _ => rfl,
      fun _ => rfl, fun _ _ => rfl, fun _ _ _ => rfl, fun _ _ _ => rfl, fun _ _ => rfl, fun _ _ _ => rfl,
      fun _ => s.raiseIllegal_lengthOutOfRange⟩

end Sys2Proof.Machine
end

section
/-! PROOFS. When the engine moves and what it answers (spec/70_reset_and_hazards.md, R244): the decoded command, a
rejection (spec/60_exceptions.md, R221, R222), or a fault on an unwritten element (R224, log 2). -/

namespace Sys2Proof.Machine

/-! ### The engine moves -/

/-- The engine moves when its turn is next, and when there is none left (log 4). -/
theorem step_of_engine_next {s : State} {rest : List Turn}
    (h : s.agenda = .engine :: rest ∨ (s.agenda = [] ∧ rest = [])) :
    step s = State.engineTurn { s with agenda := rest } := by
  obtain hnext | ⟨hempty, rfl⟩ := h
  · exact step_of_agenda_cons hnext
  · rw [step, hempty]
    cases s
    cases hempty
    rfl

theorem State.engineTurn_of_busy {s : State} (h : s.busy = true) : s.engineTurn = completed s.runCommand := if_pos h

theorem State.engineTurn_of_idle {s : State} (h : s.busy = false) : s.engineTurn = .next s :=
  if_neg (Bool.not_eq_true _ ▸ h)

theorem State.runCommand_of_ok {s : State} {i : Instr} (h : decode s.cmd = .ok i) : s.runCommand = exec i s := by
  rw [State.runCommand, h]

theorem State.runCommand_of_error {s : State} {c : Cause} (h : decode s.cmd = .error c) :
    s.runCommand = .next (s.raiseIllegal c) := by
  rw [State.runCommand, h]

/-- While BUSY = 1, the engine's move is what CMD asks for, completed (R244). -/
theorem step_of_engine_busy {s : State} {rest : List Turn}
    (hengine : s.agenda = .engine :: rest ∨ (s.agenda = [] ∧ rest = [])) (hbusy : s.busy = true) :
    step s = completed (State.runCommand { s with agenda := rest }) :=
  (step_of_engine_next hengine).trans (State.engineTurn_of_busy (s := { s with agenda := rest }) hbusy)

/-- While BUSY = 1, the engine's move applies the decoded command and completes it (R244). -/
theorem step_of_engine_decode {s : State} {rest : List Turn} {i : Instr}
    (hengine : s.agenda = .engine :: rest ∨ (s.agenda = [] ∧ rest = [])) (hbusy : s.busy = true)
    (hdecode : decode s.cmd = .ok i) : step s = completed (exec i { s with agenda := rest }) := by
  rw [step_of_engine_busy hengine hbusy, State.runCommand_of_ok (s := { s with agenda := rest }) hdecode]

/-- A word of 64 bits is stored in CMD as it is (R78). -/
theorem fetchWordOf_toNat (w : Word) : fetchWordOf 64 w.toNat = w := by
  rw [fetchWordOf, Nat.mod_eq_of_lt w.isLt, BitVec.ofNat_toNat, BitVec.setWidth_eq]

/-- `withFetchWord` of a whole word stores it in CMD, sets BUSY alone, and puts the engine's turn first. -/
theorem State.withFetchWord_toNat (s : State) (w : Word) : s.withFetchWord 64 w.toNat =
    { s with cmd := w, status := 0x01, agenda := .engine :: s.agenda } := by
  rw [State.withFetchWord, fetchWordOf_toNat]
  rfl

theorem step_of_exec_next {s t : State} {rest : List Turn} {i : Instr}
    (hengine : s.agenda = .engine :: rest ∨ (s.agenda = [] ∧ rest = [])) (hbusy : s.busy = true)
    (hdecode : decode s.cmd = .ok i) (hexec : exec i { s with agenda := rest } = .next t) :
    step s = .next { t with status := t.status &&& 0xFE } := by
  rw [step_of_engine_decode hengine hbusy hdecode, hexec]
  rfl

/-- Settles O4: the engine's move is `exec` of the decoded command; so it is for a word that `withFetchWord` starts. -/
theorem stepRunsTheDecodedCommand : Obligations.StepRunsTheDecodedCommand := by
  refine ⟨fun s rest i hengine hbusy hdecode =>
    ⟨fun t hexec => step_of_exec_next hengine hbusy hdecode hexec, fun f hexec => ?_⟩,
    fun s w i t hdecode hexec => ?_⟩
  · rw [step_of_engine_decode hengine hbusy hdecode, hexec]
    rfl
  · rw [State.withFetchWord_toNat]
    exact step_of_exec_next (.inl rfl) (s.startCommand w).busy_setStarted hdecode hexec

/-- Settles O5: an idle engine has no step. -/
theorem idleEngineTurnChangesNothing : Obligations.IdleEngineTurnChangesNothing :=
  fun s rest hengine hidle =>
    (step_of_engine_next hengine).trans (State.engineTurn_of_idle (s := { s with agenda := rest }) hidle)

/-! ### Rejections -/

/-- A command whose length is out of range is rejected with cause 3 (R221). -/
theorem exec_of_lengthOk_eq_false {s : State} {i : Instr} (h : s.lengthOk i = false) :
    exec i s = .next (s.raiseIllegal .lengthOutOfRange) := by
  cases i with
  | permIp | permFp | permE | permP | permPc2 | ksched | sbox | round | cryptDec | cryptEnc => cases h
  | encode => exact execEncode_of_length (not_le.mp (of_decide_eq_false h))
  | procDec | procEnc => exact State.proc_of_length (not_le.mp (of_decide_eq_false h))
  | decodePt | decodeCt => exact State.decodeBlk_of_length (not_le.mp (of_decide_eq_false h))

/-- Settles O7: the length check of each command. -/
theorem lengthsOutOfRangeAreRejected : Obligations.LengthsOutOfRangeAreRejected := by
  refine fun s => ⟨fun htlen => exec_of_lengthOk_eq_false (State.lengthOk_encode_eq_false htlen), fun hblen => ?_⟩
  have hreject : ∀ i ∈ [Instr.procEnc, .procDec, .decodePt, .decodeCt],
      exec i s = .next (s.raiseIllegal .lengthOutOfRange) :=
    fun i hi => exec_of_lengthOk_eq_false (State.lengthOk_eq_false_of_blen hblen hi)
  exact ⟨hreject _ (by decide), hreject _ (by decide), hreject _ (by decide), hreject _ (by decide)⟩

/-- A rejection has cleared BUSY, so completing it changes nothing more (R222, R244). -/
theorem State.complete_raiseIllegal (s : State) (c : Cause) : (s.raiseIllegal c).complete = s.raiseIllegal c := by
  have hbusy : (s.raiseIllegal c).status &&& 0xFE = (s.raiseIllegal c).status := by
    rw [State.raiseIllegal_status]
    cases c <;> decide
  rw [State.complete_eq, hbusy]

/-- STATUS after a rejection is the one constant of its cause (R221, R222). -/
theorem completed_raiseIllegal (s : State) (c : Cause) :
    completed (.next (s.raiseIllegal c)) = .next { s with status := statusOf false true (causeCode c) } :=
  congrArg Host.Outcome.next (s.complete_raiseIllegal c)

/-- Settles O6: STATUS of each rejection, by its cause. -/
theorem rejectionChangesOnlyStatus : Obligations.RejectionChangesOnlyStatus := by
  intro s rest hengine hbusy
  rw [step_of_engine_busy hengine hbusy]
  refine ⟨fun hword => ?_, fun hword => ?_, fun i hword hlength => ?_⟩
  · rw [State.runCommand_of_error (s := { s with agenda := rest }) hword]
    exact completed_raiseIllegal _ .reservedOperation
  · rw [State.runCommand_of_error (s := { s with agenda := rest }) hword]
    exact completed_raiseIllegal _ .reservedField
  · rw [State.runCommand_of_ok (s := { s with agenda := rest }) hword,
      exec_of_lengthOk_eq_false (s := { s with agenda := rest }) hlength]
    exact completed_raiseIllegal _ .lengthOutOfRange

/-! ### Faults -/

theorem State.blkOperand_isSome_iff (s : State) :
    s.blkOperand.isSome ↔ ∀ j, j < s.blen.toNat → (s.readBlk j).isSome := by
  simpa [State.blkOperand] using s.readBlkFrom_isSome (start := 0) (n := s.blen.toNat)

theorem State.textOperand_isSome_iff (s : State) :
    s.textOperand.isSome ↔ ∀ i, i < s.tlen.toNat → (s.readText i).isSome := by
  simpa [State.textOperand] using s.readTextFrom_isSome (start := 0) (n := s.tlen.toNat)

theorem State.blkOperand_eq_none {s : State} (h : ∃ j, j < s.blen.toNat ∧ s.readBlk j = none) :
    s.blkOperand = none := by
  obtain ⟨j, hj, hnone⟩ := h
  by_contra hsome
  have hwritten := s.blkOperand_isSome_iff.mp (Option.isSome_iff_ne_none.mpr hsome) j hj
  rw [hnone] at hwritten
  cases hwritten

theorem State.textOperand_eq_none {s : State} (h : ∃ i, i < s.tlen.toNat ∧ s.readText i = none) :
    s.textOperand = none := by
  obtain ⟨i, hi, hnone⟩ := h
  by_contra hsome
  have hwritten := s.textOperand_isSome_iff.mp (Option.isSome_iff_ne_none.mpr hsome) i hi
  rw [hnone] at hwritten
  cases hwritten

/-- Settles O8: an unwritten element leaves the operand without a value. -/
theorem unwrittenElementsFault : Obligations.UnwrittenElementsFault := by
  refine fun s => ⟨fun hlen hnone => ?_, fun hlen hnone => ?_⟩
  · exact execEncode_of_unwritten hlen (State.textOperand_eq_none hnone)
  · have hoperand := State.blkOperand_eq_none hnone
    exact ⟨State.proc_of_unwritten hlen hoperand, State.proc_of_unwritten hlen hoperand,
      State.decodeBlk_of_unwritten hlen hoperand, State.decodeBlk_of_unwritten hlen hoperand⟩

/-! ### What stops a step -/

/-- An operation answers a next state, or it faults and reads something that has not been written. -/
def FaultsOnlyUnwritten (readsWritten : Bool) (o : Host.Outcome State Fault Refusal) : Prop :=
  (∃ t, o = .next t) ∨ (readsWritten = false ∧ ∃ f, o = .fault f)

theorem FaultsOnlyUnwritten.next (readsWritten : Bool) (t : State) : FaultsOnlyUnwritten readsWritten (.next t) :=
  .inl ⟨t, rfl⟩

theorem FaultsOnlyUnwritten.completes {readsWritten : Bool} {o : Host.Outcome State Fault Refusal}
    (h : FaultsOnlyUnwritten readsWritten o) (hwritten : readsWritten = true) : ∃ t, o = .next t :=
  h.resolve_right fun ⟨hnot, _⟩ => by rw [hwritten] at hnot; cases hnot

theorem FaultsOnlyUnwritten.ne_refused {readsWritten : Bool} {o : Host.Outcome State Fault Refusal}
    (h : FaultsOnlyUnwritten readsWritten o) (r : Refusal) : o ≠ .refused r := by
  obtain ⟨t, rfl⟩ | ⟨-, f, rfl⟩ := h <;> exact fun h => nomatch h

theorem FaultsOnlyUnwritten.completed {readsWritten : Bool} {o : Host.Outcome State Fault Refusal}
    (h : FaultsOnlyUnwritten readsWritten o) : FaultsOnlyUnwritten readsWritten (completed o) := by
  obtain ⟨t, rfl⟩ | ⟨hnot, f, rfl⟩ := h
  · exact .next _ _
  · exact .inr ⟨hnot, f, rfl⟩

theorem State.proc_faultsOnlyUnwritten (s : State) (encrypt : Bool) :
    FaultsOnlyUnwritten s.blkWritten (s.proc encrypt) := by
  obtain hlong | hlen := Nat.lt_or_ge s.blkCap s.blen.toNat
  · rw [State.proc_of_length hlong]
    exact .next _ _
  · cases hoperand : s.blkOperand with
    | none => exact .inr ⟨by rw [State.blkWritten, hoperand]; rfl, _, State.proc_of_unwritten hlen hoperand⟩
    | some blocks => exact .inl ⟨_, State.proc_of_written hlen hoperand⟩

theorem State.decodeBlk_faultsOnlyUnwritten (s : State) (ciphertextMode : Bool) :
    FaultsOnlyUnwritten s.blkWritten (s.decodeBlk ciphertextMode) := by
  obtain hlong | hlen := Nat.lt_or_ge s.blkCap s.blen.toNat
  · rw [State.decodeBlk_of_length hlong]
    exact .next _ _
  · cases hoperand : s.blkOperand with
    | none => exact .inr ⟨by rw [State.blkWritten, hoperand]; rfl, _, State.decodeBlk_of_unwritten hlen hoperand⟩
    | some blocks => exact .inl ⟨_, State.decodeBlk_of_written hlen hoperand⟩

theorem execEncode_faultsOnlyUnwritten (s : State) : FaultsOnlyUnwritten s.textWritten (execEncode s) := by
  obtain hlong | hlen := Nat.lt_or_ge s.textCap s.tlen.toNat
  · rw [execEncode_of_length hlong]
    exact .next _ _
  · cases hoperand : s.textOperand with
    | none => exact .inr ⟨by rw [State.textWritten, hoperand]; rfl, _, execEncode_of_unwritten hlen hoperand⟩
    | some text => exact .inl ⟨_, execEncode_of_written hlen hoperand⟩

/-- A command faults only on an operand that has not been written, and is never refused (R220, R224). -/
theorem exec_faultsOnlyUnwritten (i : Instr) (s : State) : FaultsOnlyUnwritten (s.operandsWritten i) (exec i s) := by
  cases i with
  | permIp | permFp | permE | permP | permPc2 | ksched | sbox | round | cryptDec | cryptEnc => exact .next _ _
  | procDec | procEnc =>
    refine (s.proc_faultsOnlyUnwritten _).imp id (And.imp_left fun hblk => ?_)
    exact (congrArg (s.written.key && ·) hblk).trans (Bool.and_false _)
  | encode => exact execEncode_faultsOnlyUnwritten s
  | decodePt | decodeCt => exact s.decodeBlk_faultsOnlyUnwritten _

theorem State.engineTurn_faultsOnlyUnwritten (s : State) :
    FaultsOnlyUnwritten (s.turnReadsWritten .engine) s.engineTurn := by
  cases hbusy : s.busy with
  | false =>
    rw [State.engineTurn_of_idle hbusy]
    exact .next _ _
  | true =>
    rw [State.engineTurn_of_busy hbusy]
    apply FaultsOnlyUnwritten.completed
    cases hdecode : decode s.cmd with
    | error c =>
      rw [State.runCommand_of_error hdecode]
      exact .next _ _
    | ok i =>
      rw [State.runCommand_of_ok hdecode]
      have hreads : s.turnReadsWritten .engine = (!s.lengthOk i || s.operandsWritten i) := by
        simp [State.turnReadsWritten, hbusy, hdecode]
      rw [hreads]
      cases hlength : s.lengthOk i with
      | false =>
        rw [exec_of_lengthOk_eq_false hlength]
        exact .next _ _
      | true => exact exec_faultsOnlyUnwritten i s

theorem State.replyElement_faultsOnlyUnwritten (s : State) (v : Option Word) :
    FaultsOnlyUnwritten v.isSome (s.replyElement v) := by
  cases v with
  | none => exact .inr ⟨rfl, _, rfl⟩
  | some v => exact .next _ _

theorem State.accessIdle_faultsOnlyUnwritten {s : State} (hidle : s.busy = false) (access : HostAccess) :
    FaultsOnlyUnwritten (s.turnReadsWritten (.host access)) (s.accessIdle access) := by
  cases access with
  | writeReg | readReg | writeText | writeBlk => exact .next _ _
  | readText i =>
    have hreads : s.turnReadsWritten (.host (.readText i)) = ((s.readText i).map fun b => b.setWidth 64).isSome := by
      simp [State.turnReadsWritten, hidle]
    rw [hreads]
    exact s.replyElement_faultsOnlyUnwritten _
  | readBlk j =>
    have hreads : s.turnReadsWritten (.host (.readBlk j)) = (s.readBlk j).isSome := by
      simp [State.turnReadsWritten, hidle]
    rw [hreads]
    exact s.replyElement_faultsOnlyUnwritten _

/-- While BUSY = 1 every host access completes (R245). -/
theorem State.accessBusy_completes (s : State) (access : HostAccess) : ∃ t, s.accessBusy access = .next t := by
  cases access with
  | writeReg | writeText | writeBlk => exact ⟨_, rfl⟩
  | readReg | readText | readBlk =>
    unfold State.accessBusy
    dsimp only
    split <;> exact ⟨_, rfl⟩

theorem State.takeTurn_faultsOnlyUnwritten (s : State) (turn : Turn) :
    FaultsOnlyUnwritten (s.turnReadsWritten turn) (s.takeTurn turn) := by
  cases turn with
  | host access =>
    show FaultsOnlyUnwritten _ (s.access access)
    cases hbusy : s.busy with
    | false =>
      rw [State.access_of_idle hbusy]
      exact State.accessIdle_faultsOnlyUnwritten hbusy access
    | true =>
      rw [State.access, if_pos hbusy]
      exact .inl (s.accessBusy_completes access)
  | engine => exact s.engineTurn_faultsOnlyUnwritten
  | reset => exact .next _ _

theorem step_ne_refused (s : State) (r : Refusal) : step s ≠ .refused r := by
  cases hagenda : s.agenda with
  | nil =>
    rw [step, hagenda]
    exact s.engineTurn_faultsOnlyUnwritten.ne_refused r
  | cons turn rest =>
    rw [step_of_agenda_cons hagenda]
    exact (State.takeTurn_faultsOnlyUnwritten _ turn).ne_refused r

/-- Settles O54: every operation answers a next state or faults on something unwritten, turn by turn. -/
theorem onlyUnwrittenReadsStop : Obligations.OnlyUnwrittenReadsStop :=
  ⟨fun s turn => (s.takeTurn_faultsOnlyUnwritten turn).completes, fun s i => (exec_faultsOnlyUnwritten i s).completes,
    step_ne_refused⟩

end Sys2Proof.Machine
end

section
/-! PROOFS. Which configurations are accepted (spec/10_state.md, R40, R41), which arguments the pure functions refuse
(R126, R199), and what the commands that write Y or SK compute (spec/40_permute.md to spec/43_driver.md). -/

namespace Sys2Proof.Machine

/-! ### The configuration -/

/-- Settles O12: FP and IP undo each other. -/
theorem finalPermutationInvertsInitial : Obligations.FinalPermutationInvertsInitial :=
  fun cfg x => ⟨permute_fp_permute_ip cfg x, permute_ip_permute_fp cfg x⟩

theorem ipIsPermutation_iff_subset (c : Tables) : c.ipIsPermutation = true ↔ Finset.Icc 1 64 ⊆ c.ip.toFinset := by
  simp only [Tables.ipIsPermutation, List.all_eq_true, List.mem_range, List.contains_iff_mem, Finset.subset_iff,
    Finset.mem_Icc, List.mem_toFinset]
  constructor
  · intro h e ⟨hlow, hhigh⟩
    simpa [Nat.sub_add_cancel hlow] using h (e - 1) (by omega)
  · intro h k hk
    exact h ⟨by omega, by omega⟩

/-- A table of 64 entries in 1..64 contains every position exactly when no entry repeats (R41). -/
theorem ipIsPermutation_iff_nodup {c : Tables} (hlen : c.ip.length = 64) (hentries : ∀ e ∈ c.ip, 1 ≤ e ∧ e ≤ 64) :
    c.ipIsPermutation = true ↔ c.ip.Nodup := by
  have hcard : (Finset.Icc 1 64).card = c.ip.length := hlen.symm
  have hsub : c.ip.toFinset ⊆ Finset.Icc 1 64 := fun e he =>
    Finset.mem_Icc.mpr (hentries e (List.mem_toFinset.mp he))
  rw [ipIsPermutation_iff_subset]
  constructor
  · intro hall
    have heq := congrArg Finset.card (hsub.antisymm hall)
    exact Multiset.toFinset_card_eq_card_iff_nodup.mp (heq.trans hcard)
  · intro hnodup
    exact (Finset.eq_of_subset_of_card_le hsub (by rw [hcard, List.toFinset_card_of_nodup hnodup])).ge

/-- R41 with positions and entries counted from 1. -/
theorem fpInvertsIp_iff_entry {c : Tables} (hlen : c.fp.length = 64) : c.fpInvertsIp = true ↔
    ∀ j, 1 ≤ j → j ≤ 64 → ∃ k, c.fp[j - 1]? = some k ∧ c.ip[k - 1]? = some j := by
  have hentry : ∀ j < 64, c.fp[j]? = some (c.fp.getD j 0) := fun j hj => by
    rw [List.getD_eq_getElem _ _ (by omega), List.getElem?_eq_getElem]
  rw [Tables.fpInvertsIp_iff]
  constructor
  · intro h j hlow hhigh
    refine ⟨_, hentry (j - 1) (by omega), ?_⟩
    rw [h (j - 1) (by omega), Nat.sub_add_cancel hlow]
  · intro h j hj
    obtain ⟨k, hk, hip⟩ := h (j + 1) (by omega) (by omega)
    rw [Nat.add_sub_cancel, hentry j hj] at hk
    cases hk
    exact hip

/-- What R8, R40 and R41 ask of a configuration, in their own words. -/
def MeetsTheRules (c : Tables) : Prop :=
  (c.ip.length = 64 ∧ c.fp.length = 64 ∧ c.e.length = 48 ∧ c.p.length = 32 ∧ c.pc2.length = 48) ∧
  (∀ e ∈ c.ip ++ c.fp ++ c.e ++ c.p ++ c.pc2, 1 ≤ e ∧ e ≤ 64) ∧
  (c.sbox.length = 4 ∧ ∀ box ∈ c.sbox, box.length = 4 ∧ ∀ row ∈ box, row.length = 16 ∧ ∀ v ∈ row, v ≤ 15) ∧
  c.ip.Nodup ∧ (∀ j, 1 ≤ j → j ≤ 64 → ∃ k, c.fp[j - 1]? = some k ∧ c.ip[k - 1]? = some j) ∧
  1 ≤ c.blkCap

theorem tables_ok_iff_meetsTheRules (c : Tables) : c.ok = true ↔ MeetsTheRules c := by
  rw [Tables.ok_iff, Tables.tablesOk_iff, Tables.sboxOk_iff, Tables.capOk_iff, MeetsTheRules]
  simp only [List.forall_mem_append]
  constructor
  · rintro ⟨⟨⟨hip, hipe⟩, ⟨hfp, hfpe⟩, ⟨he, hee⟩, ⟨hp, hpe⟩, hpc2, hpc2e⟩, hsbox, hperm, hinv, hcap⟩
    exact ⟨⟨hip, hfp, he, hp, hpc2⟩, ⟨⟨⟨⟨hipe, hfpe⟩, hee⟩, hpe⟩, hpc2e⟩, hsbox,
      (ipIsPermutation_iff_nodup hip hipe).mp hperm, (fpInvertsIp_iff_entry hfp).mp hinv, hcap⟩
  · rintro ⟨⟨hip, hfp, he, hp, hpc2⟩, ⟨⟨⟨⟨hipe, hfpe⟩, hee⟩, hpe⟩, hpc2e⟩, hsbox, hnodup, hinv, hcap⟩
    exact ⟨⟨⟨hip, hipe⟩, ⟨hfp, hfpe⟩, ⟨he, hee⟩, ⟨hp, hpe⟩, hpc2, hpc2e⟩, hsbox,
      (ipIsPermutation_iff_nodup hip hipe).mpr hnodup, (fpInvertsIp_iff_entry hfp).mpr hinv, hcap⟩

/-- Settles O13: the check that `acceptTables` makes is that of the rules. -/
theorem configurationsAccepted : Obligations.ConfigurationsAccepted := by
  refine fun c => ⟨fun hgood => ?_, fun hbad => dif_neg fun hok => hbad ((tables_ok_iff_meetsTheRules c).mp hok)⟩
  have hok : c.ok = true := (tables_ok_iff_meetsTheRules c).mpr hgood
  exact ⟨⟨c, hok⟩, dif_pos hok, rfl⟩

/-! ### Arguments of the pure functions -/

/-- Settles O19: the bounds are those of the checks, and a number in range is what its bits say. -/
theorem pureFunctionsRefuseWideArguments : Obligations.PureFunctionsRefuseWideArguments := by
  refine ⟨fun c key hkey => if_neg hkey.not_gt, fun c key => ?_, fun text hwide => ?_, fun text => ?_⟩
  · rw [createSubkeysOfNat, if_pos key.isLt, BitVec.ofNat_toNat, BitVec.setWidth_eq]
  · obtain ⟨ch, hmem, hch⟩ := hwide
    exact if_neg fun hall => hch.not_ge (of_decide_eq_true (List.all_eq_true.mp hall ch hmem))
  · have hall : (text.map BitVec.toNat).all (fun ch => decide (ch ≤ 255)) = true := by
      simp only [List.all_map, List.all_eq_true, Function.comp_apply, decide_eq_true_eq]
      exact fun b _ => Nat.le_of_lt_succ b.isLt
    have hbytes : (text.map BitVec.toNat).map (BitVec.ofNat 8) = text := by
      simp [Function.comp_def]
    rw [encodeCodePoints, if_pos hall, hbytes]

/-! ### The PERM commands -/

/-- A command that permutes A by a table and writes the result to Y, zero-extended (R100, R103 to R107). -/
theorem exists_next_of_exec_permute {s : State} {i : Instr} {w : Nat} (hw : w ≤ 64) {T : List Nat}
    (hlen : T.length = w) (hexec : exec i s = .next (s.setY ((permute w T s.a).setWidth 64))) :
    ∃ t, exec i s = .next t ∧
      (∀ (j : Nat) (_ : j < T.length), t.y.getLsbD (T.length - 1 - j) = s.a.getLsbD (64 - T[j])) ∧
      (∀ k, T.length ≤ k → t.y.getLsbD k = false) ∧ OnlyYChanges s t := by
  refine ⟨_, hexec, fun j hj => ?_, fun k hk => ?_, s.setY_onlyYChanges _⟩
  · have hin : T.length - 1 - j < 64 := by omega
    rw [State.setY_y, BitVec.getLsbD_setWidth, getLsbD_permute T s.a hlen.le hj, decide_eq_true hin, Bool.true_and]
  · rw [State.setY_y, BitVec.getLsbD_setWidth, BitVec.getLsbD_of_ge _ _ (hlen.ge.trans hk), Bool.and_false]

/-- Settles O14: each command permutes A by its configured table. -/
theorem permCommandsSelectBitsOfA : Obligations.PermCommandsSelectBitsOfA := by
  intro s i T hmem
  simp only [List.mem_cons, Prod.mk.injEq, List.not_mem_nil, or_false] at hmem
  obtain ⟨rfl, rfl⟩ | ⟨rfl, rfl⟩ | ⟨rfl, rfl⟩ | ⟨rfl, rfl⟩ | ⟨rfl, rfl⟩ := hmem
  · exact exists_next_of_exec_permute le_rfl s.cfg.ip_length (by rw [BitVec.setWidth_eq]; rfl)
  · exact exists_next_of_exec_permute le_rfl s.cfg.fp_length (by rw [BitVec.setWidth_eq]; rfl)
  · exact exists_next_of_exec_permute (by decide) s.cfg.e_length rfl
  · exact exists_next_of_exec_permute (by decide) s.cfg.p_length rfl
  · exact exists_next_of_exec_permute (by decide) s.cfg.pc2_length rfl

/-! ### KSCHED -/

/-- Fewer than 28 rotations by one place are one rotation by as many (R120). -/
theorem rotl28_iterate_eq_rotateLeft (b : KeyHalf) {n : Nat} (hn : n < 28) : rotl28^[n] b = b.rotateLeft n := by
  apply BitVec.eq_of_getLsbD_eq
  intro i hi
  rw [BitVec.getLsbD_rotateLeft, Nat.mod_eq_of_lt hn]
  obtain hlow | hhigh := Nat.lt_or_ge i n
  · have hplace : (28 - n + i + n) % 28 = i := by omega
    rw [decide_eq_true hlow, cond_true, ← getLsbD_rotl28_iterate n b (show 28 - n + i < 28 by omega), hplace]
  · have hplace : (i - n + n) % 28 = i := by omega
    rw [decide_eq_false hhigh.not_gt, cond_false, decide_eq_true hi, Bool.true_and,
      ← getLsbD_rotl28_iterate n b (show i - n < 28 by omega), hplace]

/-- Settles O18: entry r of the schedule is PC2 of the halves rotated r + 1 times. -/
theorem kschedWritesTheSchedule : Obligations.KschedWritesTheSchedule := by
  refine fun s => ⟨_, rfl, fun r hr => ?_, s.setSk_onlySkChanges _⟩
  show (skOfList (createSubkeys s.cfg.tables s.key))[r] = _
  rw [skOfList_getElem _ r hr, List.getD_eq_getElem?_getD, getElem?_createSubkeys _ _ hr, Option.getD_some, roundSubkey,
    rotl28_iterate_eq_rotateLeft _ (by omega), rotl28_iterate_eq_rotateLeft _ (by omega), leftKey, rightKey]

/-! ### SBOX and ROUND -/

/-- A zero-extended value has nothing from its own width up. -/
theorem extractLsb'_setWidth_eq_zero {w n start len : Nat} (x : BitVec w) (h : w ≤ start) :
    (x.setWidth n).extractLsb' start len = 0 := by
  ext i hi
  simp [x.getLsbD_of_ge (start + i) (by omega)]

theorem getLsbD_sboxOperand (s : State) {i : Nat} (hi : i < 48) : s.sboxOperand.getLsbD i = s.a.getLsbD i := by
  rw [State.sboxOperand, BitVec.getLsbD_extractLsb', decide_eq_true hi, Bool.true_and, Nat.zero_add]

/-- Settles O23: the operand's bits are those of A, and Y holds the substitution, zero-extended. -/
theorem sboxCommandSubstitutesA : Obligations.SboxCommandSubstitutesA := by
  refine fun s => ⟨_, rfl, fun g hg => ?_, extractLsb'_setWidth_eq_zero _ le_rfl, s.setY_onlyYChanges _⟩
  have hentry := sboxLooksUpEachGroup s.cfg s.sboxOperand g hg
  rwa [getLsbD_sboxOperand s (by omega), getLsbD_sboxOperand s (by omega), State.sboxOperand,
    BitVec.extractLsb'_extractLsb'_of_le (by omega), ← BitVec.extractLsb'_setWidth_of_le (w' := 64) (by omega)]
    at hentry

/-- Settles O24: Y is the round function's two halves. -/
theorem roundCommandComputesOneRound : Obligations.RoundCommandComputesOneRound :=
  fun s => ⟨_, rfl, BitVec.extractLsb'_append_eq_left, BitVec.extractLsb'_append_eq_right, s.setY_onlyYChanges _⟩

/-! ### CRYPT -/

/-- Settles O30: both commands write the block function's value to Y. -/
theorem cryptCommandsProcessA : Obligations.CryptCommandsProcessA :=
  fun s => ⟨⟨_, rfl, rfl, s.setY_onlyYChanges _⟩, ⟨_, rfl, rfl, s.setY_onlyYChanges _⟩⟩

/-- Settles O31: the directions of the block function undo each other (R176). -/
theorem cryptDecUndoesCryptEnc : Obligations.CryptDecUndoesCryptEnc :=
  fun s => ⟨⟨_, _, rfl, rfl, processBlock_not_processBlock s.cfg s.key s.a true⟩,
    ⟨_, _, rfl, rfl, processBlock_not_processBlock s.cfg s.key s.a false⟩⟩

end Sys2Proof.Machine
end

section
/-! PROOFS. The commands on the buffers: PROC (spec/43_driver.md, R183, R184), ENCODE (spec/44_codec.md, R200) and
DECODE (R201, R202), alone, in sequence (R176, R197), and by what they read (spec/20_memory.md, R57). -/

namespace Sys2Proof.Machine

/-! ### Operands and ranges -/

theorem State.blkOperand_eq_some_iff {s : State} {blocks : List Word} : s.blkOperand = some blocks ↔
    blocks.length = s.blen.toNat ∧ ∀ j, j < s.blen.toNat → s.readBlk j = blocks[j]? := by
  simpa only [State.blkOperand, Nat.zero_add] using
    s.readBlkFrom_eq_some (start := 0) (n := s.blen.toNat) (vs := blocks)

theorem State.textOperand_eq_some_iff {s : State} {text : List Byte} : s.textOperand = some text ↔
    text.length = s.tlen.toNat ∧ ∀ i, i < s.tlen.toNat → s.readText i = text[i]? := by
  simpa only [State.textOperand, Nat.zero_add] using
    s.readTextFrom_eq_some (start := 0) (n := s.tlen.toNat) (vs := text)

theorem State.exists_blkOperand {s : State} (h : ∀ j, j < s.blen.toNat → (s.readBlk j).isSome) :
    ∃ blocks, s.blkOperand = some blocks := Option.isSome_iff_exists.mp (s.blkOperand_isSome_iff.mpr h)

theorem State.exists_textOperand {s : State} (h : ∀ i, i < s.tlen.toNat → (s.readText i).isSome) :
    ∃ text, s.textOperand = some text := Option.isSome_iff_exists.mp (s.textOperand_isSome_iff.mpr h)

/-- The operand depends on BLEN and the elements below it alone. -/
theorem State.blkOperand_congr {s s' : State} (hblen : s.blen = s'.blen)
    (hread : ∀ j, j < s.blen.toNat → s.readBlk j = s'.readBlk j) : s.blkOperand = s'.blkOperand := by
  refine Option.ext fun blocks => ?_
  rw [State.blkOperand_eq_some_iff, State.blkOperand_eq_some_iff, ← hblen]
  exact and_congr_right fun _ => forall₂_congr fun j hj => by rw [hread j hj]

/-- The operand depends on TLEN and the bytes below it alone. -/
theorem State.textOperand_congr {s s' : State} (htlen : s.tlen = s'.tlen)
    (hread : ∀ i, i < s.tlen.toNat → s.readText i = s'.readText i) : s.textOperand = s'.textOperand := by
  refine Option.ext fun text => ?_
  rw [State.textOperand_eq_some_iff, State.textOperand_eq_some_iff, ← htlen]
  exact and_congr_right fun _ => forall₂_congr fun i hi => by rw [hread i hi]

theorem State.readBlk_writeBlkFrom_zero {s : State} {vs : List Word} (hcap : vs.length ≤ s.blkCap) {j : Nat}
    (hj : j < vs.length) : (s.writeBlkFrom 0 vs).readBlk j = vs[j]? := by
  rw [s.readBlk_writeBlkFrom 0 vs (by omega), if_pos (by omega), Nat.sub_zero]

theorem State.readText_writeTextFrom_zero {s : State} {vs : List Byte} (hcap : vs.length ≤ s.textCap) {i : Nat}
    (hi : i < vs.length) : (s.writeTextFrom 0 vs).readText i = vs[i]? := by
  rw [s.readText_writeTextFrom 0 vs (by omega), if_pos (by omega), Nat.sub_zero]

/-! ### PROC -/

theorem State.exists_proc {s : State} (hwritten : ∀ j, j < s.blen.toNat → (s.readBlk j).isSome) (encrypt : Bool) :
    ∃ t, s.proc encrypt = .next t :=
  (s.proc_faultsOnlyUnwritten encrypt).completes (s.blkOperand_isSome_iff.mpr hwritten)

/-- With BLEN in range, PROC applies the block function to each element below BLEN and changes nothing else (R183). -/
theorem State.proc_spec {s t : State} {encrypt : Bool} (hcap : s.blen.toNat ≤ s.blkCap) (h : s.proc encrypt = .next t) :
    (∃ m, t = { s with blk := m }) ∧
    (∀ j, j < s.blen.toNat → t.readBlk j = (s.readBlk j).map fun b => processBlock s.cfg.tables b s.key encrypt) ∧
    (∀ j, s.blen.toNat ≤ j → t.readBlk j = s.readBlk j) := by
  obtain ⟨hlong, -⟩ | ⟨-, blocks, hblocks, rfl⟩ := State.proc_next h
  · exact absurd hcap hlong.not_ge
  · obtain ⟨hcount, hread⟩ := State.blkOperand_eq_some_iff.mp hblocks
    have hlen : (process s.cfg.tables blocks s.keyOperand encrypt).length = s.blen.toNat := by
      rw [length_process, hcount]
    refine ⟨⟨_, s.writeBlkFrom_eq 0 _⟩, fun j hj => ?_, fun j hj => ?_⟩
    · rw [State.readBlk_writeBlkFrom_zero (hlen.trans_le hcap) (hj.trans_eq hlen.symm), hread j hj, process,
        List.getElem?_map, State.keyOperand]
    · rw [s.readBlk_writeBlkFrom 0 _ (by omega), if_neg (by omega)]

/-- Settles O32: both commands process their operand in place. -/
theorem procCommandsWorkInPlace : Obligations.ProcCommandsWorkInPlace := by
  intro s i encrypt hmem hcap hwritten
  have hexec : exec i s = s.proc encrypt := by
    simp only [List.mem_cons, Prod.mk.injEq, List.not_mem_nil, or_false] at hmem
    obtain ⟨rfl, rfl⟩ | ⟨rfl, rfl⟩ := hmem <;> rfl
  obtain ⟨t, hproc⟩ := State.exists_proc hwritten encrypt
  obtain ⟨⟨m, rfl⟩, hbelow, habove⟩ := State.proc_spec hcap hproc
  exact ⟨_, hexec.trans hproc, hbelow, ⟨rfl, rfl, rfl, rfl⟩, rfl, rfl, rfl, rfl, rfl, fun _ => rfl, habove,
    ⟨rfl, rfl, rfl, rfl⟩, rfl⟩

/-- PROC in the other direction gives every element back, and no other field has changed (R176, R184). -/
theorem State.exists_proc_proc {s : State} (hcap : s.blen.toNat ≤ s.blkCap)
    (hwritten : ∀ j, j < s.blen.toNat → (s.readBlk j).isSome) (encrypt : Bool) :
    ∃ t u m, s.proc encrypt = .next t ∧ t.proc (!encrypt) = .next u ∧ u = { s with blk := m } ∧ SameBlk s u := by
  obtain ⟨t, ht⟩ := State.exists_proc hwritten encrypt
  obtain ⟨⟨m, rfl⟩, hbelow, habove⟩ := State.proc_spec hcap ht
  obtain ⟨u, hu⟩ := State.exists_proc (s := { s with blk := m })
    (fun j hj => by rw [hbelow j hj, Option.isSome_map]; exact hwritten j hj) (!encrypt)
  obtain ⟨⟨m', rfl⟩, hbelow', habove'⟩ := State.proc_spec (s := { s with blk := m }) hcap hu
  refine ⟨_, _, m', ht, hu, rfl, fun j => ?_⟩
  obtain hj | hj := Nat.lt_or_ge j s.blen.toNat
  · rw [hbelow' j hj, hbelow j hj]
    cases s.readBlk j with
    | none => rfl
    | some b => exact congrArg some (processBlock_not_processBlock s.cfg s.key b encrypt)
  · rw [habove' j hj, habove j hj]

/-- Nothing at or above the capacity is listed in a buffer that stays within it. -/
theorem Memory.read_eq_none_of_within {width : Nat} {m : Memory width} {cap i : Nat}
    (h : Memory.within m cap = true) (hi : cap ≤ i) : Memory.read m i = none := by
  induction m with
  | nil => rfl
  | cons entry m ih =>
    obtain ⟨j, v⟩ := entry
    simp only [Memory.within, List.all_cons, Bool.and_eq_true, decide_eq_true_eq] at h
    obtain ⟨hj, hm⟩ := h
    rw [Memory.read, if_neg (by omega)]
    exact ih hm

/-- Canonical buffers that read alike are equal. -/
theorem State.blk_eq_of_sameBlk {s t : State} (hs : BuffersOk s) (ht : BuffersOk t) (hcfg : t.cfg = s.cfg)
    (hsame : SameBlk s t) : t.blk = s.blk := by
  obtain ⟨-, -, hsrising, hswithin⟩ := hs
  obtain ⟨-, -, htrising, htwithin⟩ := ht
  have hcap : t.blkCap = s.blkCap := congrArg (fun cfg : Configuration => cfg.tables.blkCap) hcfg
  refine Memory.ext_of_read htrising hsrising fun j => ?_
  obtain hin | hout := Nat.lt_or_ge j s.blkCap
  · have hread := hsame j
    rwa [State.readBlk, State.readBlk, hcap, if_pos hin, if_pos hin] at hread
  · rw [Memory.read_eq_none_of_within hswithin hout, Memory.read_eq_none_of_within htwithin (hcap ▸ hout)]

/-- From canonical buffers, PROC in the other direction gives the whole state back (R176, R184). -/
theorem State.exists_proc_proc_eq_self {s : State} (hbuffers : BuffersOk s) (hcap : s.blen.toNat ≤ s.blkCap)
    (hwritten : ∀ j, j < s.blen.toNat → (s.readBlk j).isSome) (encrypt : Bool) :
    ∃ t, s.proc encrypt = .next t ∧ t.proc (!encrypt) = .next s := by
  obtain ⟨t, u, m, ht, hu, rfl, hsame⟩ := State.exists_proc_proc hcap hwritten encrypt
  have hkeep {s t : State} {e : Bool} (h : s.proc e = .next t) : BuffersOk s → BuffersOk t :=
    (State.proc_effect (i := .procEnc) (by decide) h).buffersOk
  have hblk : m = s.blk := State.blk_eq_of_sameBlk hbuffers (hkeep hu (hkeep ht hbuffers)) rfl hsame
  subst hblk
  exact ⟨t, ht, hu⟩

/-- Settles O33: the block function's directions undo each other, and canonical buffers that read alike are equal. -/
theorem procDecUndoesProcEnc : Obligations.ProcDecUndoesProcEnc := by
  intro s hinv hcap hwritten
  have hbuffers : BuffersOk s := ((engineInv_iff s).mp hinv).2
  exact ⟨State.exists_proc_proc_eq_self hbuffers hcap hwritten true,
    State.exists_proc_proc_eq_self hbuffers hcap hwritten false⟩

/-! ### ENCODE -/

/-- With its operand in range, ENCODE leaves the encoded text as the block operand and changes nothing else. -/
theorem exists_execEncode {s : State} {text : List Byte} (hcap : s.tlen.toNat ≤ s.textCap)
    (htext : s.textOperand = some text) :
    ∃ t, execEncode s = .next t ∧ t.blkOperand = some (encodeText text) ∧
      t.blen.toNat = (s.tlen.toNat + 7) / 8 ∧ (s.tlen.toNat + 7) / 8 ≤ s.blkCap ∧
      OnlyBlkBelowAndBlenChange ((s.tlen.toNat + 7) / 8) s t := by
  have hlen : (encodeText text).length = (s.tlen.toNat + 7) / 8 := by
    rw [length_encodeText, State.length_of_textOperand htext]
  have hcapBlk : (encodeText text).length ≤ s.blkCap := by
    rw [State.textCap_eq] at hcap
    omega
  have hblen : (BitVec.ofNat 64 (encodeText text).length).toNat = (encodeText text).length := by
    have hword := s.tlen.isLt
    rw [BitVec.toNat_ofNat, Nat.mod_eq_of_lt (by omega)]
  have hframe := s.writeBlkFrom_setBlen_frame (encodeText text) (BitVec.ofNat 64 (encodeText text).length) hcapBlk
  rw [← hlen]
  refine ⟨_, execEncode_of_written hcap htext, ?_, hblen, hcapBlk, hframe⟩
  refine State.blkOperand_eq_some_iff.mpr ⟨hblen.symm, fun j hj => ?_⟩
  exact State.readBlk_writeBlkFrom_zero hcapBlk (hj.trans_eq hblen)

/-- Settles O39: byte k of block j of the encoded text is byte 8j+k of the padded text (R190 to R192). -/
theorem encodeCommandPacksText : Obligations.EncodeCommandPacksText := by
  intro s hcap hwritten
  obtain ⟨text, htext⟩ := State.exists_textOperand hwritten
  obtain ⟨hlen, hread⟩ := State.textOperand_eq_some_iff.mp htext
  obtain ⟨t, hexec, hoperand, hblen, -, hframe⟩ := exists_execEncode hcap htext
  obtain ⟨hcount, hblocks⟩ := State.blkOperand_eq_some_iff.mp hoperand
  refine ⟨t, hexec, hblen, fun j hj => ?_, hframe⟩
  rw [← hblen] at hj
  have hv := List.getElem?_eq_getElem (hj.trans_eq hcount.symm)
  refine ⟨_, (hblocks j hj).trans hv, fun k hk => ?_⟩
  rw [(encodePadsTheLastSegment text).2 j _ hv k hk, hlen]
  split
  next hin => exact (hread _ hin).symm
  next => rfl

/-! ### DECODE -/

/-- With its operand in range, DECODE writes the decoded text from TEXT[0] on and changes nothing else but TLEN. -/
theorem State.exists_decodeBlk {s : State} {blocks : List Word} (hcap : s.blen.toNat ≤ s.blkCap)
    (hblocks : s.blkOperand = some blocks) (ciphertextMode : Bool) :
    ∃ t, s.decodeBlk ciphertextMode = .next t ∧ t.tlen = textLength (decodeText blocks ciphertextMode).length ∧
      (∀ i, i < (decodeText blocks ciphertextMode).length → t.readText i = (decodeText blocks ciphertextMode)[i]?) ∧
      OnlyTextBelowAndTlenChange (decodeText blocks ciphertextMode).length s t := by
  have hlen := length_decodeText_le blocks ciphertextMode
  rw [State.length_of_blkOperand hblocks] at hlen
  have hcapText : (decodeText blocks ciphertextMode).length ≤ s.textCap := by
    rw [State.textCap_eq]
    omega
  exact ⟨_, State.decodeBlk_of_written hcap hblocks, rfl, fun i hi => State.readText_writeTextFrom_zero hcapText hi,
    s.writeTextFrom_setTlen_frame _ _ hcapText⟩

theorem getElem?_unpackBlock (v : Word) {k : Nat} (hk : k < 8) :
    (unpackBlock v)[k]? = some (v.extractLsb' (56 - 8 * k) 8) :=
  List.getElem?_eq_some_iff.mpr ⟨hk.trans_eq (length_unpackBlock v).symm, getElem_unpackBlock v _⟩

/-- Settles O40: byte 8j+k of the text is byte k of block j (R194). -/
theorem decodeCtCommandUnpacksBlocks : Obligations.DecodeCtCommandUnpacksBlocks := by
  intro s hcap hwritten
  obtain ⟨blocks, hblocks⟩ := State.exists_blkOperand hwritten
  obtain ⟨hcount, hread⟩ := State.blkOperand_eq_some_iff.mp hblocks
  obtain ⟨t, hexec, htlen, htext, hframe⟩ := State.exists_decodeBlk hcap hblocks true
  rw [length_decodeText_true, hcount] at htlen htext hframe
  refine ⟨t, hexec, fun hfits => ?_, fun j k hj hk => ?_, hframe⟩
  · rw [htlen, textLength_toNat hfits]
  · rw [htext _ (by omega), getElem?_decodeText_true blocks j hk, hread j hj, Option.map_eq_bind]
    exact congrArg _ (funext fun v => getElem?_unpackBlock v hk)

/-- Settles O41: the text is the plaintext decode, and TLEN its length where that fits (log 10). -/
theorem decodePtCommandRecoversText : Obligations.DecodePtCommandRecoversText := by
  intro s blocks hcap hcount hread out
  have hblocks : s.blkOperand = some blocks := State.blkOperand_eq_some_iff.mpr ⟨hcount, hread⟩
  obtain ⟨t, hexec, htlen, htext, hframe⟩ := State.exists_decodeBlk hcap hblocks false
  have hlen : out.length ≤ 8 * s.blen.toNat := hcount ▸ length_decodeText_le blocks false
  refine ⟨t, hexec, fun hfits => ?_, hlen, ?_, htext, hframe⟩
  · rw [htlen, textLength_toNat hfits]
  · rw [htlen]
    exact (textLength_le _).trans hlen

/-! ### The pipeline -/

/-- Settles O42: each command finds the one before's result as its operand; decryption undoes encryption (R176), and the
codec gives the text back (R197). -/
theorem textSurvivesThePipeline : Obligations.TextSurvivesThePipeline := by
  intro s text hcap hlen hread hzero hlast
  have hoperand : s.textOperand = some text := State.textOperand_eq_some_iff.mpr ⟨hlen, hread⟩
  have hcodec : decodeText (encodeText text) false = text :=
    (decodeText_false_encodeText_eq_self_iff text).mpr ⟨hzero, by simpa only [List.length_eq_zero_iff] using hlast⟩
  obtain ⟨s1, hencode, hblocks, hblen, hcapBlk, ⟨-, -, -, -, -, htext1, -, ⟨hcfg, -⟩, -⟩⟩ :=
    exists_execEncode hcap hoperand
  have hcap1 : s1.blen.toNat ≤ s1.blkCap := by
    rw [hblen, State.blkCap, hcfg]
    exact hcapBlk
  have hwritten := s1.blkOperand_isSome_iff.mp (by rw [hblocks]; rfl)
  obtain ⟨s2, s3, m, henc, hdec, rfl, hsame⟩ := State.exists_proc_proc hcap1 hwritten true
  have hblocks3 : State.blkOperand { s1 with blk := m } = some (encodeText text) :=
    (State.blkOperand_congr (s := { s1 with blk := m }) (s' := s1) rfl fun j _ => hsame j).trans hblocks
  obtain ⟨s4, hdecode, htlen, htext, ⟨-, -, -, -, -, habove, -⟩⟩ :=
    State.exists_decodeBlk (s := { s1 with blk := m }) hcap1 hblocks3 false
  rw [hcodec] at htlen htext habove
  refine ⟨s1, s2, _, s4, hencode, henc, hdec, hdecode, ?_, fun i => ?_⟩
  · apply BitVec.eq_of_toNat_eq
    rw [htlen, textLength_toNat (hlen.trans_lt s.tlen.isLt), hlen]
  · obtain hi | hi := Nat.lt_or_ge i text.length
    · rw [htext i hi, hread i (hi.trans_eq hlen)]
    · exact (habove i hi).trans (htext1 i)

/-! ### What the commands read -/

/-- PERM makes Y of the configuration and A alone. -/
theorem exists_function_of_exec_perm {i : Instr} (hi : i ∈ [Instr.permIp, .permFp, .permE, .permP, .permPc2]) :
    ∃ f : Tables → Word → Word, ∀ s : State, exec i s = .next (s.setY (f s.cfg.tables s.a)) := by
  fin_cases hi
  · exact ⟨fun c a => permute 64 c.ip a, fun _ => rfl⟩
  · exact ⟨fun c a => permute 64 c.fp a, fun _ => rfl⟩
  · exact ⟨fun c a => (permute 48 c.e a).setWidth 64, fun _ => rfl⟩
  · exact ⟨fun c a => (permute 32 c.p a).setWidth 64, fun _ => rfl⟩
  · exact ⟨fun c a => (permute 48 c.pc2 a).setWidth 64, fun _ => rfl⟩

/-- CRYPT makes Y of the configuration, A and KEY alone. -/
theorem exists_function_of_exec_crypt {i : Instr} (hi : i ∈ [Instr.cryptEnc, .cryptDec]) :
    ∃ f : Tables → Word → Key → Word, ∀ s : State, exec i s = .next (s.setY (f s.cfg.tables s.a s.key)) := by
  fin_cases hi
  · exact ⟨fun c a key => processBlock c a key true, fun _ => rfl⟩
  · exact ⟨fun c a key => processBlock c a key false, fun _ => rfl⟩

theorem y_eq_of_setY_eq {o o' : Host.Outcome State Fault Refusal} {s s' t t' : State} {v v' : Word}
    (hs : o = .next (s.setY v)) (hs' : o' = .next (s'.setY v')) (hv : v = v') (ht : o = .next t)
    (ht' : o' = .next t') : t.y = t'.y := by
  subst hs hs'
  cases ht
  cases ht'
  exact hv

theorem State.readBlk_eq_of_proc {s s' t t' : State} {encrypt : Bool} (hcfg : s.cfg = s'.cfg) (hkey : s.key = s'.key)
    (hblen : s.blen = s'.blen) (hread : ∀ j, j < s.blen.toNat → s.readBlk j = s'.readBlk j)
    (ht : s.proc encrypt = .next t) (ht' : s'.proc encrypt = .next t') {j : Nat} (hj : j < s.blen.toNat) :
    t.readBlk j = t'.readBlk j := by
  have hcapEq : s.blkCap = s'.blkCap := by rw [State.blkCap, hcfg, State.blkCap]
  obtain hlong | hcap := Nat.lt_or_ge s.blkCap s.blen.toNat
  · rw [State.proc_of_length hlong] at ht
    rw [State.proc_of_length (by rwa [← hcapEq, ← hblen])] at ht'
    cases ht
    cases ht'
    exact hread j hj
  · obtain ⟨-, hbelow, -⟩ := State.proc_spec hcap ht
    obtain ⟨-, hbelow', -⟩ := State.proc_spec (by rwa [← hcapEq, ← hblen]) ht'
    rw [hbelow j hj, hbelow' j (by rwa [← hblen]), hread j hj, hcfg, hkey]

/-- An operand determines BLEN and the elements below it. -/
theorem State.eq_of_blkOperand_eq {t t' : State} {blocks : List Word} (h : t.blkOperand = some blocks)
    (h' : t'.blkOperand = some blocks) :
    t.blen = t'.blen ∧ ∀ j, j < t.blen.toNat → t.readBlk j = t'.readBlk j := by
  obtain ⟨hlen, hread⟩ := State.blkOperand_eq_some_iff.mp h
  obtain ⟨hlen', hread'⟩ := State.blkOperand_eq_some_iff.mp h'
  have hblen : t.blen = t'.blen := BitVec.eq_of_toNat_eq (hlen.symm.trans hlen')
  exact ⟨hblen, fun j hj => (hread j hj).trans (hread' j (hblen ▸ hj)).symm⟩

theorem blocks_eq_of_execEncode {s s' t t' : State} (hcfg : s.cfg = s'.cfg) (htlen : s.tlen = s'.tlen)
    (hread : ∀ k, k < s.tlen.toNat → s.readText k = s'.readText k) (ht : execEncode s = .next t)
    (ht' : execEncode s' = .next t') (hcap : s.tlen.toNat ≤ s.textCap) :
    t.blen = t'.blen ∧ ∀ j, j < t.blen.toNat → t.readBlk j = t'.readBlk j := by
  have hcap' : s'.tlen.toNat ≤ s'.textCap := by rwa [State.textCap, ← hcfg, ← htlen]
  obtain ⟨hlong, -⟩ | ⟨-, text, htext, -⟩ := execEncode_next ht
  · exact absurd hcap hlong.not_ge
  · have htext' := (State.textOperand_congr htlen hread).symm.trans htext
    obtain ⟨u, hu, hblocks, -⟩ := exists_execEncode hcap htext
    obtain ⟨u', hu', hblocks', -⟩ := exists_execEncode hcap' htext'
    cases ht.symm.trans hu
    cases ht'.symm.trans hu'
    exact State.eq_of_blkOperand_eq hblocks hblocks'

theorem text_eq_of_decodeBlk {s s' t t' : State} {ciphertextMode : Bool} (hcfg : s.cfg = s'.cfg)
    (hblen : s.blen = s'.blen) (hread : ∀ j, j < s.blen.toNat → s.readBlk j = s'.readBlk j)
    (ht : s.decodeBlk ciphertextMode = .next t) (ht' : s'.decodeBlk ciphertextMode = .next t')
    (hcap : s.blen.toNat ≤ s.blkCap) : t.tlen = t'.tlen ∧ ∀ k, k < t.tlen.toNat → t.readText k = t'.readText k := by
  have hcap' : s'.blen.toNat ≤ s'.blkCap := by rwa [State.blkCap, ← hcfg, ← hblen]
  obtain ⟨hlong, -⟩ | ⟨-, blocks, hblocks, -⟩ := State.decodeBlk_next ht
  · exact absurd hcap hlong.not_ge
  · have hblocks' := (State.blkOperand_congr hblen hread).symm.trans hblocks
    obtain ⟨u, hu, htlen, htext, -⟩ := State.exists_decodeBlk hcap hblocks ciphertextMode
    obtain ⟨u', hu', htlen', htext', -⟩ := State.exists_decodeBlk hcap' hblocks' ciphertextMode
    cases ht.symm.trans hu
    cases ht'.symm.trans hu'
    refine ⟨htlen.trans htlen'.symm, fun k hk => ?_⟩
    have hin : k < (decodeText blocks ciphertextMode).length := hk.trans_le (htlen ▸ textLength_le _)
    rw [htext k hin, htext' k hin]

/-- Settles O53: what each command writes is a function of its read set. -/
theorem commandsReadOnlyTheirReadSet : Obligations.CommandsReadOnlyTheirReadSet := by
  intro s s' hcfg
  refine ⟨fun i hi ha t t' ht ht' => ?_, fun ha t t' ht ht' => ?_, fun ha hb t t' ht ht' => ?_,
    fun i hi ha hkey t t' ht ht' => ?_, fun hkey t t' ht ht' => ?_,
    fun i hi hkey hblen hread t t' ht ht' j hj => ?_,
    fun htlen hread t t' ht ht' hcap => blocks_eq_of_execEncode hcfg htlen hread ht ht' hcap,
    fun i hi hblen hread t t' ht ht' hcap => ?_⟩
  · obtain ⟨f, hf⟩ := exists_function_of_exec_perm hi
    exact y_eq_of_setY_eq (hf s) (hf s') (by rw [hcfg, ha]) ht ht'
  · refine y_eq_of_setY_eq rfl rfl ?_ ht ht'
    rw [hcfg, State.sboxOperand, ha, State.sboxOperand]
  · refine y_eq_of_setY_eq rfl rfl ?_ ht ht'
    simp only [State.leftOperand, State.rightOperand, State.subkeyOperand, hcfg, ha, hb]
  · obtain ⟨f, hf⟩ := exists_function_of_exec_crypt hi
    exact y_eq_of_setY_eq (hf s) (hf s') (by rw [hcfg, ha, hkey]) ht ht'
  · cases ht
    cases ht'
    rw [State.setSk_sk, State.setSk_sk, State.keyOperand, hcfg, hkey, State.keyOperand]
  · fin_cases hi
    · exact State.readBlk_eq_of_proc hcfg hkey hblen hread ht ht' hj
    · exact State.readBlk_eq_of_proc hcfg hkey hblen hread ht ht' hj
  · fin_cases hi
    · exact text_eq_of_decodeBlk hcfg hblen hread ht ht' hcap
    · exact text_eq_of_decodeBlk hcfg hblen hread ht ht' hcap

end Sys2Proof.Machine
end

section
/-! PROOFS. The host's side: reset (spec/70_reset_and_hazards.md, R240), the register window and the buffers
(spec/10_state.md, R20 to R37), host accesses while a command runs (R245), and `RUN` (spec/30_encoding.md, R81). -/

namespace Sys2Proof.Machine

/-! ### Reset -/

/-- Nothing in an empty buffer has a value. -/
theorem State.readText_of_text_nil {s : State} (h : s.text = []) {i : Nat} (hi : i < s.textCap) :
    s.readText i = none := by
  rw [State.readText, if_pos hi, h, Memory.read]

theorem State.readBlk_of_blk_nil {s : State} (h : s.blk = []) {j : Nat} (hj : j < s.blkCap) : s.readBlk j = none := by
  rw [State.readBlk, if_pos hj, h, Memory.read]

/-- Settles O43: a reset turn is `applyReset`, and both reset states have empty buffers. -/
theorem resetState : Obligations.ResetState := by
  refine ⟨⟨rfl, rfl, rfl, rfl, rfl, fun _ => State.readText_of_text_nil rfl, fun _ => State.readBlk_of_blk_nil rfl⟩,
    fun s rest hagenda => ?_⟩
  exact ⟨State.applyReset { s with agenda := rest }, step_of_agenda_cons hagenda, rfl, rfl, rfl, rfl, rfl,
    fun _ => State.readText_of_text_nil rfl, fun _ => State.readBlk_of_blk_nil rfl, rfl⟩

/-! ### The register window -/

section window
variable (s : State) (v : Word)

theorem State.readReg_status : s.readReg 1 = s.status.setWidth 64 := rfl

theorem State.readReg_add_eight (n : Nat) : s.readReg (n + 8) =
    if h : 16 ≤ n + 8 ∧ n + 8 < 32 then (s.sk[n + 8 - 16]'(by omega)).setWidth 64 else 0 := rfl

theorem State.readReg_sk {r : Nat} (hr : r < 16) : s.readReg (16 + r) = s.sk[r].setWidth 64 := by
  have hindex : 16 + r = (r + 8) + 8 := by omega
  rw [hindex, State.readReg_add_eight, dif_pos (by omega)]
  rfl

/-- A reserved index and one outside the window read 0 (R36). -/
theorem State.readReg_eq_zero {i : Nat} (h : (8 ≤ i ∧ i ≤ 15) ∨ 32 ≤ i) : s.readReg i = 0 := by
  obtain ⟨n, rfl⟩ : ∃ n, i = n + 8 := ⟨i - 8, by omega⟩
  rw [State.readReg_add_eight, dif_neg (by omega)]

/-- A write to STATUS, Y, SK or an index without a register is ignored (R36, R37). -/
theorem State.writeReg_ignored {i : Nat} (h : i = 1 ∨ i = 5 ∨ 8 ≤ i) : s.writeReg i v = s := by
  obtain rfl | rfl | hhigh := h
  · rfl
  · rfl
  · obtain ⟨n, rfl⟩ : ∃ n, i = n + 8 := ⟨i - 8, by omega⟩
    rfl

/-- The other writes, but that of CMD, change what their own index reads and nothing else that the host can read:
KEY keeps 56 bits (R24), A, B, TLEN and BLEN all 64. -/
theorem State.readReg_writeReg {i : Nat} (hi : i ∈ [2, 3, 4, 6, 7]) (k : Nat) : (s.writeReg i v).readReg k =
    if k = i then if i = 2 then (v.extractLsb' 0 56).setWidth 64 else v else s.readReg k := by
  fin_cases hi <;>
    match k with
    | 0 | 1 | 2 | 3 | 4 | 5 | 6 | 7 => rfl
    | n + 8 => rfl

theorem State.writeReg_frame {i : Nat} (hi : i ∈ [2, 3, 4, 6, 7]) :
    SameText s (s.writeReg i v) ∧ SameBlk s (s.writeReg i v) ∧ SameOutside s (s.writeReg i v) := by
  fin_cases hi <;> exact ⟨fun _ => rfl, fun _ => rfl, rfl, rfl, rfl, rfl⟩

end window

/-- The low 56 bits of a word, zero-extended, are the word with bits 63:56 cleared (R24). -/
theorem setWidth_extractLsb'_eq_and (v : Word) : (v.extractLsb' 0 56).setWidth 64 = v &&& 0x00FFFFFFFFFFFFFF := by
  have hmask : (0x00FFFFFFFFFFFFFF : Word) = (BitVec.allOnes 56).setWidth 64 := by decide
  rw [hmask]
  apply BitVec.eq_of_getLsbD_eq
  intro i hi
  rw [BitVec.getLsbD_and, BitVec.getLsbD_setWidth, BitVec.getLsbD_setWidth, BitVec.getLsbD_extractLsb',
    BitVec.getLsbD_allOnes, decide_eq_true hi, Bool.true_and, Bool.true_and, Nat.zero_add, Bool.and_comm]

/-- Settles O46: each write changes what its own index reads. -/
theorem registerWindow : Obligations.RegisterWindow := by
  intro s v hidle
  simp only [State.access_of_idle hidle]
  refine ⟨fun i hi => ⟨_, rfl, ?_⟩, ⟨_, rfl, ?_⟩, fun i hi => ?_, fun i hi => ?_, fun i => rfl,
    ⟨rfl, rfl, rfl, rfl, rfl, rfl, rfl, rfl⟩, fun r hr => s.readReg_sk hr⟩
  · have hmem : i ∈ [2, 3, 4, 6, 7] := List.mem_cons_of_mem 2 hi
    have hkey : i ≠ 2 := by rintro rfl; exact absurd hi (by decide)
    refine ⟨?_, fun k hk => ?_, s.writeReg_frame v hmem⟩
    · rw [s.readReg_writeReg v hmem, if_pos rfl, if_neg hkey]
    · rw [s.readReg_writeReg v hmem, if_neg hk]
  · refine ⟨?_, fun k hk => ?_, s.writeReg_frame v (by decide)⟩
    · rw [s.readReg_writeReg v (by decide), if_pos rfl, if_pos rfl, setWidth_extractLsb'_eq_and]
    · rw [s.readReg_writeReg v (by decide), if_neg hk]
  · exact congrArg Host.Outcome.next (s.writeReg_ignored v hi)
  · exact congrArg (fun w => Host.Outcome.next (s.reply w)) (s.readReg_eq_zero hi)

/-! ### The buffers -/

theorem State.writeText_frame (s : State) (i : Nat) (v : Byte) :
    SameBlk s (s.writeText i v) ∧ SameRegisters s (s.writeText i v) ∧ SameOutside s (s.writeText i v) := by
  rw [s.writeText_eq]
  exact ⟨fun _ => rfl, ⟨⟨rfl, rfl, rfl, rfl⟩, rfl, rfl, rfl, rfl, rfl, rfl⟩, rfl, rfl, rfl, rfl⟩

theorem State.writeBlk_frame (s : State) (j : Nat) (v : Word) :
    SameText s (s.writeBlk j v) ∧ SameRegisters s (s.writeBlk j v) ∧ SameOutside s (s.writeBlk j v) := by
  rw [s.writeBlk_eq]
  exact ⟨fun _ => rfl, ⟨⟨rfl, rfl, rfl, rfl⟩, rfl, rfl, rfl, rfl, rfl, rfl⟩, rfl, rfl, rfl, rfl⟩

theorem State.accessIdle_readText {s : State} {i : Nat} {r : Option Byte} (h : s.readText i = r) :
    s.accessIdle (.readText i) = s.replyElement (r.map fun b => b.setWidth 64) := by
  rw [State.accessIdle, h]

theorem State.accessIdle_readBlk {s : State} {j : Nat} {r : Option Word} (h : s.readBlk j = r) :
    s.accessIdle (.readBlk j) = s.replyElement r := by
  rw [State.accessIdle, h]

/-- Settles O47: reads after writes, and what a read of each kind of element answers. -/
theorem bufferAccess : Obligations.BufferAccess := by
  intro s hidle
  simp only [State.access_of_idle hidle]
  refine ⟨fun i v hi => ⟨_, rfl, ?_, fun k hk => ?_, s.writeText_frame i v⟩,
    fun j v hj => ⟨_, rfl, ?_, fun k hk => ?_, s.writeBlk_frame j v⟩,
    fun i b h => State.accessIdle_readText h, fun j w h => State.accessIdle_readBlk h,
    fun i h => State.accessIdle_readText h, fun j h => State.accessIdle_readBlk h,
    fun i v hi => ⟨congrArg Host.Outcome.next (if_neg hi.not_gt), if_neg hi.not_gt⟩,
    fun j v hj => ⟨congrArg Host.Outcome.next (if_neg hj.not_gt), if_neg hj.not_gt⟩⟩
  · rw [s.readText_writeText, if_pos ⟨rfl, hi⟩]
  · rw [s.readText_writeText, if_neg fun h => hk h.1]
  · rw [s.readBlk_writeBlk, if_pos ⟨rfl, hj⟩]
  · rw [s.readBlk_writeBlk, if_neg fun h => hk h.1]

/-! ### While BUSY = 1 -/

/-- A legal STATUS with BUSY = 1 has no other bit set (R22, R243). -/
theorem State.status_of_busy {s : State} (hlegal : s.legalStatus = true) (hbusy : s.busy = true) : s.status = 1 := by
  obtain ⟨hreserved, hcause, -, hill⟩ := s.legalStatus_iff.mp hlegal
  have hfields : ∀ v : BitVec 8, v.getLsbD 0 = true → v.getLsbD 1 = false → v.extractLsb' 2 2 = 0 →
      v.extractLsb' 4 4 = 0 → v = 1 := by decide
  exact hfields s.status hbusy (hill hbusy) hreserved (hcause (hill hbusy))

theorem unspecifiedWhileBusy_iff (i : Nat) :
    unspecifiedWhileBusy i = true ↔ (5 ≤ i ∧ i ≤ 7) ∨ (16 ≤ i ∧ i ≤ 31) := by
  simp only [unspecifiedWhileBusy, Bool.or_eq_true, Bool.and_eq_true, beq_iff_eq, decide_eq_true_eq]
  omega

theorem State.accessBusy_readReg_unspecified (s : State) {i : Nat} (h : (5 ≤ i ∧ i ≤ 7) ∨ (16 ≤ i ∧ i ≤ 31)) :
    s.accessBusy (.readReg i) = .next (s.replyFree (registerMask i)) :=
  if_pos ((unspecifiedWhileBusy_iff i).mpr h)

theorem State.accessBusy_readReg_specified (s : State) {i : Nat} (h : ¬((5 ≤ i ∧ i ≤ 7) ∨ (16 ≤ i ∧ i ≤ 31))) :
    s.accessBusy (.readReg i) = .next (s.reply (s.readReg i)) :=
  if_neg fun hun => h ((unspecifiedWhileBusy_iff i).mp hun)

/-- A read of STATUS returns BUSY alone (R245). -/
theorem State.accessBusy_readStatus {s : State} (hstatus : s.status = 1) :
    s.accessBusy (.readReg 1) = .next (s.reply 1) := by
  rw [State.accessBusy_readReg_specified _ (by decide), State.readReg_status, hstatus]
  rfl

/-- With BUSY = 1 a host turn leaves the agenda and has its effect on what remains. -/
theorem step_host_of_busy {s : State} {access : HostAccess} {rest : List Turn}
    (hagenda : s.agenda = .host access :: rest) (hbusy : s.busy = true) :
    step s = State.accessBusy { s with agenda := rest } access :=
  (step_of_agenda_cons hagenda).trans (if_pos hbusy)

/-- Settles O45: writes are ignored, and each kind of read answers what R245 says. -/
theorem hostAccessWhileBusy : Obligations.HostAccessWhileBusy := by
  intro s rest access hagenda hbusy hlegal
  have hstatus := State.status_of_busy hlegal hbusy
  rw [step_host_of_busy hagenda hbusy]
  refine ⟨fun i v h => ?writeReg, fun i v h => ?writeText, fun j v h => ?writeBlk, fun h => ?cmd, fun h => ?status,
    fun h => ?key, fun h => ?a, fun h => ?b, ?unspecified, ?none⟩
  case writeReg | writeText | writeBlk | cmd | key | a | b =>
    subst h
    rfl
  case status =>
    subst h
    exact State.accessBusy_readStatus (s := { s with agenda := rest }) hstatus
  case unspecified =>
    rintro (⟨i, rfl, hi⟩ | ⟨i, rfl, hi⟩ | ⟨j, rfl, hj⟩)
    · exact ⟨_, _, State.accessBusy_readReg_unspecified _ hi⟩
    · exact ⟨_, _, if_pos hi⟩
    · exact ⟨_, _, if_pos hj⟩
  case none =>
    rintro (⟨i, rfl, hi⟩ | ⟨i, rfl, hi⟩ | ⟨j, rfl, hj⟩)
    · rw [State.accessBusy_readReg_specified _ (by omega), State.readReg_eq_zero _ hi]
      rfl
    · exact if_neg hi.not_gt
    · exact if_neg hj.not_gt

/-! ### RUN -/

/-- A run takes the next step first. -/
theorem run_succ_of_step_next {s t : State} (h : step s = .next t) (n : Nat) :
    core.run (n + 1) s = core.run n t := by
  have hrun {M : Host.Core} {s t : M.State} (h : M.step s = .next t) : M.run (n + 1) s = M.run n t := by
    rw [Host.Core.run, h]
  exact hrun (M := core) h

/-- While a command runs, a poll returns BUSY alone and changes nothing else (R81, R245). -/
theorem step_of_poll {s : State} {turns : List Turn} (hstatus : s.status = 1)
    (hagenda : s.agenda = .host (.readReg 1) :: turns) :
    step s = .next { s with agenda := turns, replies := 1 :: s.replies } := by
  have hbusy : s.busy = true := by rw [State.busy, hstatus]; decide
  rw [step_host_of_busy hagenda hbusy]
  exact State.accessBusy_readStatus (s := { s with agenda := turns }) hstatus

theorem run_polls (polls n : Nat) {s : State} {turns : List Turn} (hstatus : s.status = 1)
    (hagenda : s.agenda = List.replicate polls (.host (.readReg 1)) ++ turns) :
    core.run (polls + n) s =
      core.run n { s with agenda := turns, replies := List.replicate polls 1 ++ s.replies } := by
  induction polls generalizing s with
  | zero =>
    cases s
    cases hagenda
    rw [Nat.zero_add]
    rfl
  | succ polls ih =>
    have hhead : s.agenda = .host (.readReg 1) :: (List.replicate polls (.host (.readReg 1)) ++ turns) := hagenda
    have hpoll := step_of_poll hstatus hhead
    have hreplies : List.replicate polls 1 ++ 1 :: s.replies = List.replicate (polls + 1) 1 ++ s.replies := by
      rw [List.replicate_succ', List.append_assoc, List.singleton_append]
    rw [Nat.add_right_comm, ← hreplies]
    exact (run_succ_of_step_next hpoll _).trans (ih hstatus rfl)

/-- The read that ends `WAIT` finds BUSY = 0 and returns STATUS (R81). -/
theorem step_of_last_poll {s : State} {turns : List Turn} (hidle : s.busy = false)
    (hagenda : s.agenda = .host (.readReg 1) :: turns) :
    step s = .next { s with agenda := turns, replies := s.status.setWidth 64 :: s.replies } :=
  step_host_of_idle hagenda hidle

/-- Settles O48: the write of CMD starts the command, the polls see it running, the engine's turn completes it, and the
last read finds BUSY = 0. -/
theorem runCompletesWhateverTheLatency : Obligations.RunCompletesWhateverTheLatency := by
  intro s i polls rest t hidle hagenda polled started status hexec
  have hstart : step s = .next { s with cmd := encode i, status := 0x01, agenda := waitTurns polls ++ rest } :=
    step_host_of_idle hagenda hidle
  have hengine : step { started with agenda := .engine :: .host (.readReg 1) :: rest } =
      .next { t with status := status } :=
    step_of_exec_next (.inl rfl) (State.busy_setStarted s) (decode_encode i) hexec
  obtain ⟨-, ⟨-, hturns, hreplies, -⟩, -⟩ := commandsWriteOnlyTheirWriteSet i started t hexec
  have hlast : step { t with status := status } =
      .next { t with status := status, agenda := rest, replies := status.setWidth 64 :: polled } :=
    (step_of_last_poll (s := { t with status := status }) t.busy_clearBusy hturns).trans (by rw [hreplies])
  have hpolls : core.run (polls + 2) { s with cmd := encode i, status := 0x01, agenda := waitTurns polls ++ rest } =
      core.run 2 { started with agenda := .engine :: .host (.readReg 1) :: rest } :=
    run_polls polls 2 rfl (List.append_assoc _ _ _)
  calc core.run (polls + 3) s
    _ = core.run (polls + 2) _ := run_succ_of_step_next hstart _
    _ = core.run 2 _ := hpolls
    _ = core.run 1 _ := run_succ_of_step_next hengine _
    _ = core.run 0 _ := run_succ_of_step_next hlast _
    _ = _ := rfl

end Sys2Proof.Machine
end
